-- ==== Sys2Proof/Word.lean ====
section
/-! DEFINITION. The widths of values that the spec gives: a byte (8 bits), a 16-bit value (a register, a packet
field, a checksum) and a 32-bit command or response word (00_scope.md R2, CMD_WIDTH and ACC_WIDTH). All values are
unsigned (00_scope.md section 6.1). -/

namespace Sys2Proof

/-- One byte of a payload, a packet or a checksummed buffer. -/
abbrev Byte := BitVec 8

/-- A 16-bit value: the accumulator, the identifier, the sequence number, a checksum, a command's `arg`. -/
abbrev Half := BitVec 16

/-- A 32-bit command word or response word, an abstract number with no byte order (20_memory.md R35). -/
abbrev Word := BitVec 32

end Sys2Proof
end

