-- ==== Sys2Proof/Config.lean ====
section
/-! DEFINITION. The constants of the block, 00_scope.md R2. They are fixed for this hardware. The spec leaves no value
of the block free (93_implementation_defined.md section 1, last paragraph), so there is no opaque constant here. -/

namespace Sys2Proof.Config

/-- MAX_CHUNK: the largest payload length in bytes, fixed at 32 (R2, decision D30). -/
def maxChunk : Nat := 32

/-- HEADER_LEN: the length of the packet header in bytes (R2). -/
def headerLen : Nat := 8

/-- MAX_PKT: HEADER_LEN + MAX_CHUNK, the longest packet (R2). -/
def maxPkt : Nat := headerLen + maxChunk

/-- TYPE_ECHO (R2). -/
def typeEcho : Byte := 0x08#8

/-- TYPE_ECHOREPLY (R2). -/
def typeEchoReply : Byte := 0x00#8

/-- CODE: the code byte of every packet (R2, R55). -/
def code : Byte := 0x00#8

/-- END_SEQ: the sequence value of the end marker (R2, R104). -/
def endSeq : Half := 0xFFFF#16

/-- MAX_CHUNKS: the largest number of data chunks in one stream, a host precondition (R2, R114; 90_conflicts.md C2
decides for 0xFFFE). -/
def maxChunks : Nat := 0xFFFE

end Sys2Proof.Config
end

