-- ==== Sys2Proof/Machine/Operands.lean ====
section
/-! DEFINITION. The fields of a command word (30_encoding.md R46) and the five argument forms by which its `arg` is
read (R47). Nothing is sign-extended, scaled or shifted. -/

namespace Sys2Proof.Machine

/-- The opcode, bits 31:24 (R46). -/
def opField (cmd : Word) : Byte := cmd.extractLsb' 24 8

/-- The must-be-zero field, bits 23:16 (R46). -/
def mbzField (cmd : Word) : Byte := cmd.extractLsb' 16 8

/-- The operand field, bits 15:0 (R46). -/
def argField (cmd : Word) : Half := cmd.extractLsb' 0 16

/-- The argument forms of R47. -/
inductive ArgForm where
  /-- N: no operand. -/
  | none
  /-- B: a byte. -/
  | byte
  /-- W: a 16-bit word. -/
  | word
  /-- I: an offset into PKT. -/
  | index
  /-- S: a register number. -/
  | register
  deriving DecidableEq, Repr

/-- When an `arg` is legal for a form (R47, column "legal when"). -/
def ArgForm.legal : ArgForm → Half → Bool
  | .none, arg => arg == 0#16
  | .byte, arg => arg.extractLsb' 8 8 == 0#8
  | .word, _ => true
  | .index, _ => true
  | .register, arg => arg.toNat ≤ 7

/-- The byte operand of form B, `arg[7:0]` (R47). -/
def byteOperand (arg : Half) : Byte := arg.extractLsb' 0 8

/-- The command word `op ++ 0x00 ++ arg` (R46 with the must-be-zero field zero; R61). -/
def commandWord (op : Byte) (arg : Half) : Word := op ++ 0#8 ++ arg

end Sys2Proof.Machine
end

