-- ==== Sys2Proof/Syntax.lean ====
section
/-! DEFINITION. The thirteen commands of 30_encoding.md R48, one constructor per row of spec/opcode_table.json. An
operand has the width its argument form gives it (R47): a byte for form B, 16 bits for forms W, I and S. -/

namespace Sys2Proof

/-- A command with its operand. -/
inductive Instr where
  /-- RESET (R96): all state to its reset value. -/
  | reset
  /-- RDSR n (R97): read register `n`; legal for `n <= 7` only, which `Instr.WellFormed` checks. -/
  | rdsr (n : Half)
  /-- CSCLR (R67): clear the checksum engine. -/
  | csclr
  /-- CSBYTE b (R68): absorb one byte. -/
  | csbyte (b : Byte)
  /-- CSWORD w (R69): absorb two bytes, high byte first. -/
  | csword (w : Half)
  /-- CSGET (R70): the checksum of the absorbed bytes. -/
  | csget
  /-- PFTYPE b (R81): set TYPE. -/
  | pftype (b : Byte)
  /-- PFID w (R82): set IDENT. -/
  | pfid (w : Half)
  /-- PFSEQ w (R83): set SEQ. -/
  | pfseq (w : Half)
  /-- PFCLR (R84): empty the payload buffer. -/
  | pfclr
  /-- PFPUSH b (R85): append one byte to the payload buffer. -/
  | pfpush (b : Byte)
  /-- PFBUILD (R89): build the packet. -/
  | pfbuild
  /-- PFRD i (R91): read one byte of the packet. -/
  | pfrd (i : Half)
  deriving DecidableEq, Repr

end Sys2Proof
end

