-- ==== Sys2Proof/WellFormed.lean ====
section
/-! DEFINITION. The one check that an instruction's operand can fail once it has its form's width: form S of
30_encoding.md R47, `n <= 7`. The forms N and B leave no room for an ill-formed term, their operand having exactly the
bits the form reads; forms W and I are always legal. -/

namespace Sys2Proof

/-- The instruction is one that some command word encodes (R47, column "legal when"). -/
def Instr.WellFormed : Instr → Bool
  | .rdsr n => n.toNat ≤ 7
  | .reset | .csclr | .csbyte _ | .csword _ | .csget => true
  | .pftype _ | .pfid _ | .pfseq _ | .pfclr | .pfpush _ | .pfbuild | .pfrd _ => true

end Sys2Proof
end

