-- ==== Sys2Proof/Decode.lean ====
section
/-! DEFINITION. The decoder of 30_encoding.md R49, total on the 2^32 command words and rejecting by name; the encoder
of R48 and R61 after it; the opcode table of R48 as rows; and `decodeTableWord` for the host. A command word is an
abstract number (20_memory.md R35), so the decoder takes the word and no byte list (assumption log 2). -/

namespace Sys2Proof

open Sys2Proof.Machine

/-- Why a word is no command: the five bullets of R52. -/
inductive Illegal where
  /-- Bits 23:16 are not all zero. -/
  | mbzNotZero
  /-- `op` is not one of the thirteen. -/
  | reservedOp
  /-- A form-N command with `arg != 0`. -/
  | argNotZero
  /-- A form-B command with `arg[15:8] != 0`. -/
  | argHighNotZero
  /-- RDSR with a reserved register number. -/
  | reservedRegister
  deriving DecidableEq, Repr

/-- The answer of the decoder: a command with its operand, or `Illegal` (R49). -/
inductive Decoded where
  | command (i : Instr)
  | illegal (why : Illegal)
  deriving DecidableEq, Repr

/-- Form N: `arg` must be zero (R47). -/
def decodeN (arg : Half) (i : Instr) : Decoded :=
  if ArgForm.none.legal arg then .command i else .illegal .argNotZero

/-- Form B: `arg[15:8]` must be zero and `arg[7:0]` is the operand (R47). -/
def decodeB (arg : Half) (mk : Byte → Instr) : Decoded :=
  if ArgForm.byte.legal arg then .command (mk (byteOperand arg)) else .illegal .argHighNotZero

/-- Form S: `arg` is a register number, at most 7 (R47). -/
def decodeS (arg : Half) (mk : Half → Instr) : Decoded :=
  if ArgForm.register.legal arg then .command (mk arg) else .illegal .reservedRegister

/-- The `case op of` of R49, for a word whose must-be-zero field is zero. -/
def decodeOp (op : Byte) (arg : Half) : Decoded :=
  match op with
  | 0x01#8 => decodeN arg .reset
  | 0x02#8 => decodeS arg .rdsr
  | 0x10#8 => decodeN arg .csclr
  | 0x11#8 => decodeB arg .csbyte
  | 0x12#8 => .command (.csword arg)
  | 0x13#8 => decodeN arg .csget
  | 0x20#8 => decodeB arg .pftype
  | 0x21#8 => .command (.pfid arg)
  | 0x22#8 => .command (.pfseq arg)
  | 0x23#8 => decodeN arg .pfclr
  | 0x24#8 => decodeB arg .pfpush
  | 0x25#8 => decodeN arg .pfbuild
  | 0x26#8 => .command (.pfrd arg)
  | _ => .illegal .reservedOp

/-- `decode(cmd)` of R49. It reads no state. -/
def decode (cmd : Word) : Decoded :=
  if mbzField cmd = 0#8 then decodeOp (opField cmd) (argField cmd) else .illegal .mbzNotZero

/-- The opcode of each command (R48). -/
def Instr.opcode : Instr → Byte
  | .reset => 0x01#8
  | .rdsr _ => 0x02#8
  | .csclr => 0x10#8
  | .csbyte _ => 0x11#8
  | .csword _ => 0x12#8
  | .csget => 0x13#8
  | .pftype _ => 0x20#8
  | .pfid _ => 0x21#8
  | .pfseq _ => 0x22#8
  | .pfclr => 0x23#8
  | .pfpush _ => 0x24#8
  | .pfbuild => 0x25#8
  | .pfrd _ => 0x26#8

/-- The operand zero-extended to 16 bits, or 0 for form N (R61). -/
def Instr.arg : Instr → Half
  | .reset | .csclr | .csget | .pfclr | .pfbuild => 0#16
  | .csbyte b | .pftype b | .pfpush b => b.setWidth 16
  | .csword w | .pfid w | .pfseq w => w
  | .pfrd i => i
  | .rdsr n => n

/-- The word of a command, `op ++ 0x00 ++ arg` (R48, R61). -/
def encode (i : Instr) : Word := commandWord i.opcode i.arg

/-- One row of the opcode table of R48. -/
structure OpcodeRow where
  op : Byte
  form : ArgForm
  pattern : Word
  mask : Word
  deriving DecidableEq, Repr

/-- The rows of R48, with the exact match and mask values of its second table. -/
def opcodeRows : List OpcodeRow :=
  [ ⟨0x01#8, .none, 0x01000000#32, 0xFFFFFFFF#32⟩,
    ⟨0x02#8, .register, 0x02000000#32, 0xFFFFFFF8#32⟩,
    ⟨0x10#8, .none, 0x10000000#32, 0xFFFFFFFF#32⟩,
    ⟨0x11#8, .byte, 0x11000000#32, 0xFFFFFF00#32⟩,
    ⟨0x12#8, .word, 0x12000000#32, 0xFFFF0000#32⟩,
    ⟨0x13#8, .none, 0x13000000#32, 0xFFFFFFFF#32⟩,
    ⟨0x20#8, .byte, 0x20000000#32, 0xFFFFFF00#32⟩,
    ⟨0x21#8, .word, 0x21000000#32, 0xFFFF0000#32⟩,
    ⟨0x22#8, .word, 0x22000000#32, 0xFFFF0000#32⟩,
    ⟨0x23#8, .none, 0x23000000#32, 0xFFFFFFFF#32⟩,
    ⟨0x24#8, .byte, 0x24000000#32, 0xFFFFFF00#32⟩,
    ⟨0x25#8, .none, 0x25000000#32, 0xFFFFFFFF#32⟩,
    ⟨0x26#8, .index, 0x26000000#32, 0xFFFF0000#32⟩ ]

/-- The instruction the decoder reads from the `nbits`-bit table word `w`: every bit above `nbits` is zero, and a
number that needs more than the 32 bits of a command word is no command. -/
def decodeTableWord (nbits w : Nat) : Option Instr :=
  if w % 2 ^ nbits < 2 ^ 32 then
    match decode (BitVec.ofNat 32 (w % 2 ^ nbits)) with
    | .command i => some i
    | .illegal _ => none
  else none

end Sys2Proof
end

