-- ==== Sys2Proof/Machine/Arith.lean ====
section
/-! DEFINITION. The arithmetic of the spec: byte order of a 16-bit value (00_scope.md section 6.1, 20_memory.md R32 and
R33), the three primitives of 00_scope.md section 6.3, and the checksum function of 40_checksum_engine.md R63. -/

namespace Sys2Proof.Machine

/-- `hi8(w) = w[15:8]`. -/
def hi8 (w : Half) : Byte := w.extractLsb' 8 8

/-- `lo8(w) = w[7:0]`. -/
def lo8 (w : Half) : Byte := w.extractLsb' 0 8

/-- `be16(w)`, the big-endian bytes of a 16-bit value: high byte at the lower offset (R32). -/
def be16 (w : Half) : List Byte := [hi8 w, lo8 w]

/-- `word(h, l) = 256 * h + l`, that is `h ++ l` (R33). -/
def word (h l : Byte) : Half := h ++ l

/-- `ones_add16`, the add with end-around carry (R3): the 17-bit sum, its low 16 bits plus its carry. -/
def onesAdd16 (a b : Half) : Half :=
  let t : BitVec 17 := a.setWidth 17 + b.setWidth 17
  t.extractLsb' 0 16 + (t.extractLsb' 16 1).setWidth 16

/-- At most `fuel` passes of the loop of R4. -/
def foldLoop : Nat → Nat → Nat
  | 0, s => s
  | fuel + 1, s => if 0xFFFF < s then foldLoop fuel (s % 0x10000 + s / 0x10000) else s

/-- `fold16(s)` (R4): fold until the value fits in 16 bits. Each pass makes `s` smaller, so `s` passes are enough; one
pass is not (90_conflicts.md C1). -/
def fold16 (s : Nat) : Nat := foldLoop s s

/-- The conceptual pad byte of an odd-length buffer (R5). -/
def padEven (B : List Byte) : List Byte := if B.length % 2 = 0 then B else B ++ [0#8]

/-- The 16-bit big-endian words of an even-length buffer, paired from offset 0 (R5, R33). -/
def wordsOf : List Byte → List Half
  | h :: l :: rest => word h l :: wordsOf rest
  | _ => []

/-- `wsum(B)` (R5), an unbounded natural number. -/
def wsum (B : List Byte) : Nat := ((wordsOf (padEven B)).map BitVec.toNat).sum

/-- `NOT16(v)`, the bitwise complement (00_scope.md section 6.1). -/
def not16 (v : Half) : Half := ~~~v

/-- `computeChecksum(B)` (R63). -/
def computeChecksum (B : List Byte) : Half := not16 (BitVec.ofNat 16 (fold16 (wsum B)))

end Sys2Proof.Machine
end

