-- ==== Sys2Proof/Machine/State.lean ====
section
/-! DEFINITION. The state: the block's registers and buffers (10_state.md R10, exactly its table), the command port
between host and block, and the host, which is the second agent of 00_scope.md R6 (its Transfer Driver is
43_transfer_driver.md). Plain data throughout. -/

namespace Sys2Proof.Machine

/-- The two byte buffers of the block (20_memory.md R30). Each is a list of exactly its length, so `PLEN` and `PKTLEN`
are the lists' lengths and the places beyond them hold no value (10_state.md R20, R21, decision D29). -/
structure Memory where
  /-- `PAY`, the payload buffer; `PLEN` is its length. -/
  pay : List Byte
  /-- `PKT`, the packet buffer; `PKTLEN` is its length. -/
  pkt : List Byte
  deriving DecidableEq, Repr

/-- The architectural state of the block: the table of 10_state.md R10 and nothing else. -/
structure Block where
  /-- `FAULT`, 1 bit: the block is FAULTED (R11). -/
  fault : Bool
  /-- `CAUSE`, 8 bits (R12). -/
  cause : Byte
  /-- `ACC`, the 16-bit one's-complement accumulator (R13). -/
  acc : Half
  /-- `HALF`, 1 bit: an odd number of bytes has been absorbed (R14). -/
  half : Bool
  /-- `HOLD`, the pending high byte, 0 when `HALF = 0` (R15). -/
  hold : Byte
  /-- `TYPE`, 8 bits (R17). -/
  ptype : Byte
  /-- `IDENT`, 16 bits (R18). -/
  ident : Half
  /-- `SEQ`, 16 bits (R19). -/
  seq : Half
  /-- `PAY` with `PLEN` (R20) and `PKT` with `PKTLEN` (R21). -/
  mem : Memory
  deriving DecidableEq, Repr

/-- The command port. One command is outstanding at most: the host issues the next command only after it has the
response (R6, R43 (c)), so a second command before the first is answered cannot be written down (R136, U6). -/
inductive Port where
  /-- Nothing is outstanding: the host moves next. -/
  | idle
  /-- The host has presented a command word: the block moves next. -/
  | command (w : Word)
  /-- The block has answered: the host takes the response next. -/
  | response (r : Word)
  deriving DecidableEq, Repr

/-- One thing a host does with the block. -/
inductive HostOp where
  /-- Issue a command word and note its response. -/
  | send (w : Word)
  /-- Issue `PFRD i` and keep `DATA[7:0]` of its response as the next byte read out. -/
  | fetch (i : Half)
  /-- Begin reading the packet out: `PFRD 0` to `PFRD n-1` with `n` the `DATA` of the last response
  (30_encoding.md R62 READPACKET, 43_transfer_driver.md R109). -/
  | readOut
  deriving DecidableEq, Repr

/-- Why a transfer stopped early. -/
inductive AbortReason where
  /-- The transmission collaborator reported failure (43_transfer_driver.md R110). -/
  | transmitFailed
  /-- A response had bit 31 set (R109). -/
  | blockFault
  deriving DecidableEq, Repr

/-- The states of the driver: READING, EMIT_DATA, EMIT_END and DONE of R101, the set-up that R109 does once before the
loop, the abort of R110, and no transfer at all. -/
inductive Phase where
  | off
  | starting
  | reading
  | emitData
  | emitEnd
  | done
  | aborted (why : AbortReason)
  deriving DecidableEq, Repr

/-- The Transfer Driver of 43_transfer_driver.md: the operands of `sendFile`, its own state, and its two collaborators
(the bytes `readChunk` has still to deliver, and the outcomes `transmit` has still to report). -/
structure Driver where
  phase : Phase
  /-- The bytes of the file not read yet, in file order (R105). -/
  file : List Byte
  /-- `streamIdentifier` (R103). -/
  ident : Half
  /-- The destination, an IPv4 address (R110). -/
  dest : Word
  /-- The sequence counter; the source gives it no width (R102). -/
  counter : Nat
  /-- What the coming calls of `transmit` report, `true` for success (R110): an input from the outside world. A call
  that finds the list empty blocks, as R110's "blocking call with no timeout" does. -/
  net : List Bool
  /-- The `(buffer, destination)` pairs handed to `transmit`, oldest first: the observation of R112. -/
  sent : List (List Byte × Word)
  deriving DecidableEq, Repr

/-- The host: what it has still to issue, what it has read, and its driver. -/
structure HostAgent where
  /-- The straight list of things still to do (30_encoding.md R61). -/
  script : List HostOp
  /-- The outstanding command is a `fetch`. -/
  keep : Bool
  /-- The last response taken. -/
  last : Word
  /-- The bytes read out of the packet buffer so far. -/
  bytes : List Byte
  /-- Every response taken, oldest first: the observation of the block alone (decision D26). -/
  observed : List Word
  driver : Driver
  deriving DecidableEq, Repr

/-- The whole machine: the block, the port, the host, and the hardware reset input (70_reset_and_hazards.md R133). -/
structure State where
  block : Block
  port : Port
  host : HostAgent
  /-- A hardware reset event has arrived and takes place next (R133). -/
  hwReset : Bool
  deriving DecidableEq, Repr

/-- Why the machine would stop with a fault. There is no such case: a fault of the spec is a sticky state of the block
with a response (60_exceptions.md R121), and nothing in the block is stuck (93_implementation_defined.md, end of
section 1; R142). -/
inductive Fault where
  deriving DecidableEq, Repr

/-- Why the machine refuses a step. -/
inductive Refusal where
  /-- Raised by an arm of `exec` for an instruction without a meaning; no arm does. Safe. -/
  | notModelled (mnemonic : String)
  /-- Raised by the driver in READING when a chunk beyond MAX_CHUNKS arrives: the spec leaves the driver undefined
  there and asks a model to refuse (93_implementation_defined.md U4, R114). Safe. No instruction raises it. -/
  | chunkBoundExceeded
  deriving DecidableEq, Repr

/-- The outcome of a step or of an instruction. -/
abbrev Result := Host.Outcome State Fault Refusal

/-- Both buffers empty (R29). -/
def Memory.empty : Memory := { pay := [], pkt := [] }

/-- The block after reset, 10_state.md R29. -/
def Block.reset : Block :=
  { fault := false, cause := 0#8, acc := 0#16, half := false, hold := 0#8, ptype := 0#8, ident := 0#16, seq := 0#16,
    mem := Memory.empty }

/-- A driver with no transfer (assumption log 4). -/
def Driver.idle : Driver :=
  { phase := .off, file := [], ident := 0#16, dest := 0#32, counter := 0, net := [], sent := [] }

/-- A host with nothing to do that has read nothing (assumption log 4). -/
def HostAgent.idle : HostAgent :=
  { script := [], keep := false, last := 0#32, bytes := [], observed := [], driver := Driver.idle }

/-- The machine right after reset: the block as R29 says, nothing outstanding, an idle host (R134: the block executes
nothing until the host sends a command). -/
def State.reset : State :=
  { block := Block.reset, port := .idle, host := HostAgent.idle, hwReset := false }

end Sys2Proof.Machine
end

