-- ==== Sys2Proof/Machine/Flags.lean ====
section
/-! DEFINITION. The block's two flags `FAULT` and `HALF` as software sees them (10_state.md R24): in the STATUS view
(R23) and, for `FAULT`, in the response word (30_encoding.md R50). There is no carry, zero, overflow or condition flag
(R24). -/

namespace Sys2Proof.Machine

/-- STATUS: `CAUSE ++ 0b000000 ++ HALF ++ FAULT`, a view without storage of its own (R23). -/
def Block.status (b : Block) : Half :=
  b.cause ++ 0#6 ++ BitVec.ofBool b.half ++ BitVec.ofBool b.fault

/-- The response word with `DATA = d` (R50): `1 ++ 0000000 ++ CAUSE ++ d` when FAULTED, else
`0 ++ 0000000 ++ 0x00 ++ d`. -/
def Block.responseWord (b : Block) (d : Half) : Word :=
  if b.fault then 1#1 ++ 0#7 ++ b.cause ++ d else 0#1 ++ 0#7 ++ 0#8 ++ d

/-- The field `F` of a response, bit 31 (R50). -/
def respF (r : Word) : Bool := r.getLsbD 31

/-- The field `CAUSE` of a response, bits 23:16 (R50). -/
def respCause (r : Word) : Byte := r.extractLsb' 16 8

/-- The field `DATA` of a response, bits 15:0 (R50). -/
def respData (r : Word) : Half := r.extractLsb' 0 16

end Sys2Proof.Machine
end

