-- ==== Sys2Proof/Machine/Ops.lean ====
section
/-! DEFINITION. The shared operations: access to the two buffers (20_memory.md R30, R31), the register read-out
(10_state.md R22), answering a command (30_encoding.md R50), fault entry (60_exceptions.md R121), refusal (R124) and
the way out, reset (R125, 70_reset_and_hazards.md R133). -/

namespace Sys2Proof.Machine

/-- An address is a buffer name and an index, `PAY+i` or `PKT+i` (20_memory.md R30). -/
inductive Addr where
  | pay (i : Nat)
  | pkt (i : Nat)
  deriving DecidableEq, Repr

/-- `MemRead(addr, 1)`: the byte at the index, and no value at or beyond the buffer's length (R31). -/
def Memory.read (m : Memory) : Addr → Option Byte
  | .pay i => m.pay[i]?
  | .pkt i => m.pkt[i]?

/-- One byte written to a buffer: at its length the buffer grows by the byte, below it the byte is replaced. The spec's
commands write nowhere else (R31). -/
def bufWrite (buf : List Byte) (i : Nat) (b : Byte) : List Byte :=
  if i = buf.length then buf ++ [b] else buf.set i b

/-- `MemWrite(addr, 1, b)` (R31). -/
def Memory.write (m : Memory) (a : Addr) (b : Byte) : Memory :=
  match a with
  | .pay i => { m with pay := bufWrite m.pay i b }
  | .pkt i => { m with pkt := bufWrite m.pkt i b }

/-- Bytes written one after another into PKT from offset `at` on, the loop of 41_packet_framer.md R89. -/
def Memory.writePkt (m : Memory) (k : Nat) : List Byte → Memory
  | [] => m
  | b :: bs => (m.write (.pkt k) b).writePkt (k + 1) bs

/-- The canonical form of the buffers: `PLEN <= 32`, and `PKTLEN` 0 or 8 to 40 (R20, R21, R30). -/
def Memory.wf (m : Memory) : Bool :=
  m.pay.length ≤ Config.maxChunk &&
    (m.pkt.length == 0 || (Config.headerLen ≤ m.pkt.length && m.pkt.length ≤ Config.maxPkt))

/-- `PLEN` (R20). -/
def Block.plen (b : Block) : Nat := b.mem.pay.length

/-- `PKTLEN` (R21). -/
def Block.pktlen (b : Block) : Nat := b.mem.pkt.length

/-- The address a PFPUSH stores to, `PAY+PLEN` (R31, R85). -/
def Block.pushAddr (b : Block) : Addr := .pay b.plen

/-- `SR[n]`, the 16-bit value of register number `n`, zero-extended; numbers above 7 are reserved and have none
(10_state.md R22). -/
def Block.sr (b : Block) (n : Half) : Option Half :=
  match n.toNat with
  | 0 => some b.status
  | 1 => some b.acc
  | 2 => some (b.hold.setWidth 16)
  | 3 => some (b.ptype.setWidth 16)
  | 4 => some b.ident
  | 5 => some b.seq
  | 6 => some (BitVec.ofNat 16 b.plen)
  | 7 => some (BitVec.ofNat 16 b.pktlen)
  | _ => none

/-- The state in which the block has become `b` and has answered with `DATA = d`. -/
def State.answered (s : State) (b : Block) (d : Half) : State :=
  { s with block := b, port := .response (b.responseWord d) }

/-- `respond(d)` after the assignments that made the block `b` (R50, 00_scope.md section 6.2): the command ends. -/
def respond (s : State) (b : Block) (d : Half) : Result := .next (s.answered b d)

/-- The causes of 60_exceptions.md R117. -/
inductive Cause where
  | illegalCommand
  | badType
  | payloadOverflow
  | indexRange
  deriving DecidableEq, Repr

/-- The code of a cause (R117). -/
def Cause.code : Cause → Byte
  | .illegalCommand => 1#8
  | .badType => 2#8
  | .payloadOverflow => 3#8
  | .indexRange => 4#8

/-- Fault entry on the block: `FAULT <- 1; CAUSE <- code(X)` and nothing else (R121). -/
def Block.raised (b : Block) (c : Cause) : Block := { b with fault := true, cause := c.code }

/-- `raise X` (R121): `b` is the block with the assignments written before the raise; the response is
`1 ++ 0000000 ++ code(X) ++ 0x0000`. -/
def raise (s : State) (b : Block) (c : Cause) : Result := respond s (b.raised c) 0#16

/-- Refusal of a command while FAULTED (R124): nothing changes and the response is
`1 ++ 0000000 ++ CAUSE ++ 0x0000`. -/
def refuse (s : State) : Result := respond s s.block 0#16

/-- The FAULTED test that comes before a command's own rule (R123): refuse while FAULTED, else go on. -/
def unlessFaulted (s : State) (go : Result) : Result := if s.block.fault then refuse s else go

/-- An illegal word: ILLEGAL_COMMAND when not FAULTED, refused when FAULTED (R118, R123). -/
def illegalCommand (s : State) : Result := unlessFaulted s (raise s s.block .illegalCommand)

/-- A hardware reset: the block takes its reset values (R133) and the event is over. The port and the host are no state
of the block and stay (assumption log 5). -/
def hardwareReset (s : State) : State := { s with block := Block.reset, hwReset := false }

end Sys2Proof.Machine
end

