-- ==== Sys2Proof/Machine/Checksum.lean ====
section
/-! DEFINITION. The Checksum Engine commands CSCLR, CSBYTE, CSWORD and CSGET, 40_checksum_engine.md section 3. -/

namespace Sys2Proof.Machine

/-- CSCLR's effect on the engine (R67). -/
def Block.csClear (b : Block) : Block := { b with acc := 0#16, half := false, hold := 0#8 }

/-- CSBYTE's effect on the engine (R68). -/
def Block.csByte (b : Block) (x : Byte) : Block :=
  if b.half then { b with acc := onesAdd16 b.acc (word b.hold x), hold := 0#8, half := false }
  else { b with hold := x, half := true }

/-- CSWORD's effect on the engine (R69). -/
def Block.csWord (b : Block) (w : Half) : Block :=
  if b.half then { b with acc := onesAdd16 b.acc (word b.hold (hi8 w)), hold := lo8 w }
  else { b with acc := onesAdd16 b.acc w }

/-- CSGET's sum `t`, the pending byte padded with a zero byte (R70). -/
def Block.csSum (b : Block) : Half :=
  if b.half then onesAdd16 b.acc (word b.hold 0#8) else b.acc

/-- CSCLR (R67). -/
def execCsclr (s : State) : Result := unlessFaulted s (respond s s.block.csClear 0#16)

/-- CSBYTE b (R68). -/
def execCsbyte (b : Byte) (s : State) : Result := unlessFaulted s (respond s (s.block.csByte b) 0#16)

/-- CSWORD w (R69). -/
def execCsword (w : Half) (s : State) : Result := unlessFaulted s (respond s (s.block.csWord w) 0#16)

/-- CSGET (R70): no state changes. -/
def execCsget (s : State) : Result := unlessFaulted s (respond s s.block (not16 s.block.csSum))

end Sys2Proof.Machine
end

