-- ==== Sys2Proof/Machine/Framer.lean ====
section
/-! DEFINITION. The Packet Framer: the function `buildPacket` of 41_packet_framer.md R77 to R80, and the commands
PFTYPE, PFID, PFSEQ, PFCLR, PFPUSH, PFBUILD and PFRD of its section 2. -/

namespace Sys2Proof.Machine

/-- The packet of R53 with the checksum field `C`. -/
def packetWith (P : List Byte) (T : Byte) (C I S : Half) : List Byte :=
  [T, Config.code] ++ be16 C ++ be16 I ++ be16 S ++ P

/-- `Z` of R77: header with the zero checksum placeholder, then the payload. -/
def zeroedPacket (P : List Byte) (T : Byte) (I S : Half) : List Byte :=
  [T, Config.code, 0#8, 0#8] ++ be16 I ++ be16 S ++ P

/-- The bytes of R77's result. -/
def packetBytes (P : List Byte) (T : Byte) (I S : Half) : List Byte :=
  packetWith P T (computeChecksum (zeroedPacket P T I S)) I S

/-- The precondition on the type, R78. -/
def legalType (T : Byte) : Bool := T == Config.typeEcho || T == Config.typeEchoReply

/-- `buildPacket(P, T, I, S)` of R77. Without the preconditions of R78 and R79 the function has no result (U1, U3). -/
def buildPacket (P : List Byte) (T : Byte) (I S : Half) : Option (List Byte) :=
  if legalType T && P.length ≤ Config.maxChunk then some (packetBytes P T I S) else none

/-- PFBUILD's writes to PKT (R89): `Z` byte by byte, then the checksum spliced in at offsets 2 and 3. The old packet's
bytes cease to exist. -/
def Memory.buildPkt (m : Memory) (T : Byte) (I S : Half) : Memory :=
  let Z := zeroedPacket m.pay T I S
  let C := computeChecksum Z
  ((({ m with pkt := [] }).writePkt 0 Z).write (.pkt 2) (hi8 C)).write (.pkt 3) (lo8 C)

/-- PFTYPE b (R81): every byte is stored, legal type or not. -/
def execPftype (b : Byte) (s : State) : Result :=
  unlessFaulted s (respond s { s.block with ptype := b } 0#16)

/-- PFID w (R82). -/
def execPfid (w : Half) (s : State) : Result :=
  unlessFaulted s (respond s { s.block with ident := w } 0#16)

/-- PFSEQ w (R83). -/
def execPfseq (w : Half) (s : State) : Result :=
  unlessFaulted s (respond s { s.block with seq := w } 0#16)

/-- PFCLR (R84). -/
def execPfclr (s : State) : Result :=
  unlessFaulted s (respond s { s.block with mem := { s.block.mem with pay := [] } } 0#16)

/-- PFPUSH b (R85): PAYLOAD_OVERFLOW when `PLEN` is not below MAX_CHUNK (R86; the bounds check of 20_memory.md R42). -/
def execPfpush (b : Byte) (s : State) : Result :=
  unlessFaulted s
    (if s.block.plen < Config.maxChunk then
      respond s { s.block with mem := s.block.mem.write s.block.pushAddr b } 0#16
    else raise s s.block .payloadOverflow)

/-- PFBUILD (R89): BAD_TYPE with `PKTLEN <- 0` for a type that is neither 0x00 nor 0x08 (R90). The checksum is the pure
function, so the engine's registers are neither read nor written (R87). -/
def execPfbuild (s : State) : Result :=
  unlessFaulted s
    (if legalType s.block.ptype then
      respond s { s.block with mem := s.block.mem.buildPkt s.block.ptype s.block.ident s.block.seq }
        (BitVec.ofNat 16 (Config.headerLen + s.block.plen))
    else raise s { s.block with mem := { s.block.mem with pkt := [] } } .badType)

/-- PFRD i (R91): INDEX_RANGE when `i >= PKTLEN`, which is when `PKT+i` holds no value (R92). -/
def execPfrd (i : Half) (s : State) : Result :=
  unlessFaulted s
    (match s.block.mem.read (.pkt i.toNat) with
    | some b => respond s s.block (b.setWidth 16)
    | none => raise s s.block .indexRange)

end Sys2Proof.Machine
end

