-- ==== Sys2Proof/Machine/System.lean ====
section
/-! DEFINITION. The system commands RESET and RDSR, 42_system_commands.md: the two that execute while FAULTED. -/

namespace Sys2Proof.Machine

/-- RESET (R96): every piece of state to its reset value, also while FAULTED. It is the block's only return from a
fault (60_exceptions.md R125). -/
def execReset (s : State) : Result :=
  respond s
    { fault := false, cause := 0#8, acc := 0#16, half := false, hold := 0#8, ptype := 0#8, ident := 0#16,
      seq := 0#16, mem := Memory.empty } 0#16

/-- RDSR n (R97): `respond(SR[n])`, also while FAULTED. A reserved register number is an illegal command
(10_state.md R22); no word decodes to one. -/
def execRdsr (n : Half) (s : State) : Result :=
  match s.block.sr n with
  | some v => respond s s.block v
  | none => illegalCommand s

end Sys2Proof.Machine
end

