-- ==== Sys2Proof/Machine/Dispatch.lean ====
section
/-! DEFINITION. What each command does, one arm per constructor; the FAULTED test of 60_exceptions.md R123 is inside
each meaning. -/

namespace Sys2Proof.Machine

def exec (i : Instr) (s : State) : Host.Outcome State Fault Refusal :=
  match i with
  -- 42_system_commands.md
  | .reset => Sys2Proof.Machine.execReset s
  | .rdsr n => Sys2Proof.Machine.execRdsr n s
  -- 40_checksum_engine.md
  | .csclr => Sys2Proof.Machine.execCsclr s
  | .csbyte b => Sys2Proof.Machine.execCsbyte b s
  | .csword w => Sys2Proof.Machine.execCsword w s
  | .csget => Sys2Proof.Machine.execCsget s
  -- 41_packet_framer.md
  | .pftype b => Sys2Proof.Machine.execPftype b s
  | .pfid w => Sys2Proof.Machine.execPfid w s
  | .pfseq w => Sys2Proof.Machine.execPfseq w s
  | .pfclr => Sys2Proof.Machine.execPfclr s
  | .pfpush b => Sys2Proof.Machine.execPfpush b s
  | .pfbuild => Sys2Proof.Machine.execPfbuild s
  | .pfrd j => Sys2Proof.Machine.execPfrd j s

end Sys2Proof.Machine
end

