-- ==== Sys2Proof/Machine/Command.lean ====
section
/-! DEFINITION. The top-level step of the block for one command word, 60_exceptions.md R123. -/

namespace Sys2Proof.Machine

/-- `step(cmd)` of R123: decode, which reads no state, then the command's own rule, or the illegal command. In both the
FAULTED test comes first. -/
def runCommand (cmd : Word) (s : State) : Result :=
  match decode cmd with
  | .command i => exec i s
  | .illegal _ => illegalCommand s

/-- A command sequence is the fold of the step over it (20_memory.md R43 (d)). -/
def execAll : List Instr → State → Result
  | [], s => .next s
  | i :: rest, s =>
    match exec i s with
    | .next t => execAll rest t
    | .fault r => .fault r
    | .refused r => .refused r

/-- The same for command words, legal or not. -/
def runCommands : List Word → State → Result
  | [], s => .next s
  | w :: rest, s =>
    match runCommand w s with
    | .next t => runCommands rest t
    | .fault r => .fault r
    | .refused r => .refused r

end Sys2Proof.Machine
end

