-- ==== Sys2Proof/Machine/Driver.lean ====
section
/-! DEFINITION. The host: how it issues commands and takes responses (00_scope.md R6, 20_memory.md R43), the host
procedures of 30_encoding.md R62, and the Transfer Driver of 43_transfer_driver.md realised with the block's commands
(R109). One move of the host is one step of the machine. -/

namespace Sys2Proof.Machine

/-- Issue one command. -/
def sendInstr (i : Instr) : HostOp := .send (encode i)

/-- CHECKSUM b0 ... bk (R62, R73). -/
def checksumProc (bytes : List Byte) : List Instr := [.csclr] ++ bytes.map .csbyte ++ [.csget]

/-- PFLOAD b0 ... bk (R62). -/
def pfload (bytes : List Byte) : List Instr := [.pfclr] ++ bytes.map .pfpush

/-- BUILDPACKET t, id, seq, b0 ... bk (R62, R93). -/
def buildPacketProc (t : Byte) (id seq : Half) (bytes : List Byte) : List Instr :=
  [.pftype t, .pfid id, .pfseq seq] ++ pfload bytes ++ [.pfbuild]

/-- READPACKET (R62): `RDSR 7` gives `n`, then `PFRD 0` to `PFRD n-1`. -/
def readPacketProc : List HostOp := [sendInstr (.rdsr 7#16), .readOut]

/-- `PFRD 0` to `PFRD n-1` (R62, R109). -/
def fetches (n : Nat) : List HostOp := (List.range n).map fun k => .fetch (BitVec.ofNat 16 k)

/-- What R109 does for one packet: `PFSEQ seq`, `PFCLR`, one `PFPUSH` per byte, `PFBUILD`, then reading out. -/
def emitProc (seq : Half) (chunk : List Byte) : List HostOp :=
  ([Instr.pfseq seq] ++ pfload chunk ++ [Instr.pfbuild]).map sendInstr ++ [.readOut]

/-- What R109 does once, before the loop. -/
def setupProc (id : Half) : List HostOp :=
  [sendInstr .reset, sendInstr (.pftype Config.typeEchoReply), sendInstr (.pfid id)]

/-- `readChunk(handle, 32)` (R105): the chunk and the rest of the file. -/
def readChunk (file : List Byte) : List Byte × List Byte :=
  (file.take Config.maxChunk, file.drop Config.maxChunk)

/-- A transfer is running. -/
def Phase.active : Phase → Bool
  | .starting | .reading | .emitData | .emitEnd => true
  | .off | .done | .aborted _ => false

/-- The host takes the response `r`: it notes it, keeps its byte if the command was a `fetch`, and while a transfer is
running it treats a set bit 31 as the terminal failure of the transfer (R109). -/
def hostReceive (r : Word) (s : State) : State :=
  let h := { s.host with
    keep := false
    last := r
    bytes := if s.host.keep then s.host.bytes ++ [lo8 (respData r)] else s.host.bytes
    observed := s.host.observed ++ [r] }
  { s with
    port := .idle
    host :=
      if h.driver.phase.active && respF r then
        { h with script := [], driver := { h.driver with phase := .aborted .blockFault } }
      else h }

/-- `transmit(buffer, destination)` of the packet read out (R110): the pair is handed over; on success the driver goes
on with `ok`, on failure it aborts without retry. With no outcome at hand the call blocks. -/
def transmit (s : State) (ok : Driver → Driver) : State :=
  let d := s.host.driver
  match d.net with
  | [] => s
  | outcome :: net =>
    let d' := { d with net := net, sent := d.sent ++ [(s.host.bytes, d.dest)] }
    let d'' := if outcome then ok d' else { d' with phase := .aborted .transmitFailed }
    { s with host := { s.host with driver := d'' } }

/-- One move of the driver when its script is empty, the procedure of R108 with R101's states. -/
def driverMove (s : State) : Result :=
  let h := s.host
  let d := h.driver
  match d.phase with
  | .off | .done | .aborted _ => .next s
  | .starting =>
    .next { s with host := { h with
      script := setupProc d.ident, driver := { d with counter := 0, phase := .reading } } }
  | .reading =>
    match readChunk d.file with
    | ([], _) =>
      .next { s with host := { h with
        script := emitProc Config.endSeq [], driver := { d with phase := .emitEnd } } }
    | (chunk, rest) =>
      if d.counter < Config.maxChunks then
        .next { s with host := { h with
          script := emitProc (BitVec.ofNat 16 d.counter) chunk,
          driver := { d with file := rest, phase := .emitData } } }
      else .refused .chunkBoundExceeded
  | .emitData => .next (transmit s fun d' => { d' with counter := d'.counter + 1, phase := .reading })
  | .emitEnd => .next (transmit s fun d' => { d' with phase := .done })

/-- One move of the host with nothing outstanding: the head of its script, else the driver. -/
def hostIssue (s : State) : Result :=
  let h := s.host
  match h.script with
  | .send w :: rest => .next { s with port := .command w, host := { h with script := rest, keep := false } }
  | .fetch i :: rest =>
    .next { s with port := .command (encode (.pfrd i)), host := { h with script := rest, keep := true } }
  | .readOut :: rest =>
    .next { s with host := { h with script := fetches (respData h.last).toNat ++ rest, bytes := [] } }
  | [] => driverMove s

/-- The host begins to run a straight list (30_encoding.md R61), in the place of one it has not worked off (assumption
log 18). -/
def State.withScript (s : State) (script : List HostOp) : State :=
  { s with host := { s.host with script := script } }

/-- The host calls `sendFile(path, destination, streamIdentifier)` (R100): `file` is what `readChunk` will deliver and
`net` what `transmit` will report. A list or a transfer under way is replaced (assumption log 18). -/
def State.startTransfer (s : State) (file : List Byte) (dest : Word) (ident : Half) (net : List Bool) : State :=
  { s with host := { s.host with
    script := [],
    driver := { phase := .starting, file := file, ident := ident, dest := dest, counter := 0, net := net, sent := [] } } }

end Sys2Proof.Machine
end

