-- ==== Sys2Proof/Machine/Step.lean ====
section
/-! DEFINITION. One step of the whole machine, and where a command word is placed so that it runs next. The block does
not fetch at a program counter (10_state.md R26): the port says which of the two agents moves (00_scope.md R6). -/

namespace Sys2Proof.Machine

/-- One step: a hardware reset event first, and it falls between two moves (70_reset_and_hazards.md R133); else the
block runs the outstanding command (60_exceptions.md R123), the host takes the outstanding response, or the host makes
its next move. A host with nothing to do leaves the machine as it is (R134). -/
def step (s : State) : Host.Outcome State Fault Refusal :=
  if s.hwReset then .next (hardwareReset s)
  else
    match s.port with
    | .command w => runCommand w s
    | .response r => .next (hostReceive r s)
    | .idle => hostIssue s

/-- The state in which the command word `w` is outstanding, so that the next step runs it (assumption log 3). Where the port
already holds an unanswered command or a response not taken, `w` replaces it: DESIGN CHOICE (assumption log 18), as
70_reset_and_hazards.md R136 and U6 leave a second presented word undefined. No step of the machine does so. -/
def State.withFetchWord (s : State) (nbits w : Nat) : State :=
  { s with port := .command (BitVec.ofNat 32 (w % 2 ^ nbits)), hwReset := false }

end Sys2Proof.Machine
end

