-- ==== Sys2Proof/Machine/Assembler.lean ====
section
/-! DEFINITION. The assembler of 30_encoding.md R61 and the pseudo-commands of R62: text to what the host does. What
the text form leaves open (letters of a hexadecimal digit, a comma's neighbours) is assumption log 7. -/

namespace Sys2Proof.Machine

/-- Why a line is rejected (R61). -/
inductive AsmError where
  /-- The first word of the line is no mnemonic of R48 and no pseudo-command of R62. -/
  | unknownMnemonic
  /-- An operand is missing, or there is one too many. -/
  | operandCount
  /-- An operand is neither a decimal nor a `0x` hexadecimal number. -/
  | badNumber
  /-- An operand does not fit its form. -/
  | operandTooLarge
  deriving DecidableEq, Repr

/-- The pieces of a line between separators, empty pieces left out; `cur` is the piece being read, last letter first. -/
def piecesFrom (sep : Char) (cur : List Char) : List Char → List (List Char)
  | [] => if cur = [] then [] else [cur.reverse]
  | c :: cs =>
    if c = sep then
      (if cur = [] then piecesFrom sep [] cs else cur.reverse :: piecesFrom sep [] cs)
    else piecesFrom sep (c :: cur) cs

/-- The pieces of a line between separators. -/
def pieces (sep : Char) (line : List Char) : List (List Char) := piecesFrom sep [] line

/-- The value of a digit of the given base. -/
def digitValue (base : Nat) (c : Char) : Option Nat :=
  let v :=
    if '0' ≤ c ∧ c ≤ '9' then c.toNat - '0'.toNat
    else if 'A' ≤ c ∧ c ≤ 'F' then c.toNat - 'A'.toNat + 10
    else if 'a' ≤ c ∧ c ≤ 'f' then c.toNat - 'a'.toNat + 10
    else base
  if v < base then some v else none

/-- The number that the digits write after `acc`. -/
def digitsFrom (base acc : Nat) : List Char → Option Nat
  | [] => some acc
  | c :: cs =>
    match digitValue base c with
    | some v => digitsFrom base (acc * base + v) cs
    | none => none

/-- A number: decimal, or hexadecimal with the prefix `0x` (R61). -/
def parseNumber : List Char → Option Nat
  | '0' :: 'x' :: d :: ds => digitsFrom 16 0 (d :: ds)
  | d :: ds => digitsFrom 10 0 (d :: ds)
  | [] => none

/-- All operands of a line as numbers. -/
def parseNumbers : List (List Char) → Option (List Nat)
  | [] => some []
  | t :: ts =>
    match parseNumber t, parseNumbers ts with
    | some v, some vs => some (v :: vs)
    | _, _ => none

/-- The largest operand of a form (R61). -/
def ArgForm.largest : ArgForm → Nat
  | .none => 0
  | .byte => 0xFF
  | .word | .index => 0xFFFF
  | .register => 7

/-- The commands a line may name, with their form and what the operand makes of them (R48). -/
def mnemonics : List (String × ArgForm × (Half → Instr)) :=
  [ ("RESET", .none, fun _ => .reset), ("RDSR", .register, .rdsr), ("CSCLR", .none, fun _ => .csclr),
    ("CSBYTE", .byte, fun a => .csbyte (byteOperand a)), ("CSWORD", .word, .csword),
    ("CSGET", .none, fun _ => .csget), ("PFTYPE", .byte, fun a => .pftype (byteOperand a)),
    ("PFID", .word, .pfid), ("PFSEQ", .word, .pfseq), ("PFCLR", .none, fun _ => .pfclr),
    ("PFPUSH", .byte, fun a => .pfpush (byteOperand a)), ("PFBUILD", .none, fun _ => .pfbuild),
    ("PFRD", .index, .pfrd) ]

/-- One command with its operands (R61): none for form N, one that fits for the others. -/
def assembleCommand (mnemonic : List Char) (operands : List Nat) : Except AsmError Instr :=
  match mnemonics.find? (fun row => row.1.toList == mnemonic) with
  | none => .error .unknownMnemonic
  | some (_, form, mk) =>
    match form, operands with
    | .none, [] => .ok (mk 0#16)
    | .none, _ => .error .operandCount
    | _, [v] => if v ≤ form.largest then .ok (mk (BitVec.ofNat 16 v)) else .error .operandTooLarge
    | _, _ => .error .operandCount

/-- A command or a pseudo-command with its operands, as the host does it (R61, R62). -/
def assembleWith (mnemonic : List Char) (operands : List Nat) : Except AsmError (List HostOp) :=
  if mnemonic = ".word".toList then
    match operands with
    | [v] => if v < 2 ^ 32 then .ok [.send (BitVec.ofNat 32 v)] else .error .operandTooLarge
    | _ => .error .operandCount
  else if mnemonic = "CHECKSUM".toList then
    if operands.all (· ≤ 0xFF) then .ok ((checksumProc (operands.map (BitVec.ofNat 8))).map sendInstr)
    else .error .operandTooLarge
  else if mnemonic = "PFLOAD".toList then
    if operands.all (· ≤ 0xFF) then .ok ((pfload (operands.map (BitVec.ofNat 8))).map sendInstr)
    else .error .operandTooLarge
  else if mnemonic = "BUILDPACKET".toList then
    match operands with
    | t :: id :: seq :: bytes =>
      if t ≤ 0xFF ∧ id ≤ 0xFFFF ∧ seq ≤ 0xFFFF ∧ bytes.all (· ≤ 0xFF) then
        .ok ((buildPacketProc (BitVec.ofNat 8 t) (BitVec.ofNat 16 id) (BitVec.ofNat 16 seq)
          (bytes.map (BitVec.ofNat 8))).map sendInstr)
      else .error .operandTooLarge
    | _ => .error .operandCount
  else if mnemonic = "READPACKET".toList then
    if operands = [] then .ok readPacketProc else .error .operandCount
  else
    match assembleCommand mnemonic operands with
    | .ok i => .ok [sendInstr i]
    | .error e => .error e

/-- One line: `;` starts a comment, a blank line is ignored, and the operands of BUILDPACKET may have commas between
them (R61, R62). -/
def assembleLine (line : List Char) : Except AsmError (List HostOp) :=
  match pieces ' ' (line.takeWhile (· ≠ ';')) with
  | [] => .ok []
  | mnemonic :: rest =>
    let operands := if mnemonic = "BUILDPACKET".toList then rest.flatMap (pieces ',') else rest
    match parseNumbers operands with
    | some vs => assembleWith mnemonic vs
    | none => .error .badNumber

/-- Line after line; the first rejected line rejects the program. -/
def assembleLines : List (List Char) → Except AsmError (List HostOp)
  | [] => .ok []
  | line :: lines =>
    match assembleLine line, assembleLines lines with
    | .ok ops, .ok more => .ok (ops ++ more)
    | .error e, _ => .error e
    | .ok _, .error e => .error e

/-- A program text: a straight list of commands, one a line (R61). -/
def assemble (text : List Char) : Except AsmError (List HostOp) := assembleLines (pieces '\n' text)

end Sys2Proof.Machine
end

