-- ==== Sys2Proof/Machine/Stream.lean ====
section
/-! DEFINITION. The stream of one file transfer as a pure function of the file, 43_transfer_driver.md R104 to R108:
what an end-to-end claim compares the machine with. -/

namespace Sys2Proof.Machine

/-- The non-empty chunks that at most `fuel` reads of `readChunk` deliver (R105). -/
def chunksWithin : Nat → List Byte → List (List Byte)
  | 0, _ => []
  | _ + 1, [] => []
  | fuel + 1, file@(_ :: _) => file.take Config.maxChunk :: chunksWithin fuel (file.drop Config.maxChunk)

/-- The chunks of a file in read order, each of 1 to 32 bytes (R105, R106). -/
def chunks (file : List Byte) : List (List Byte) := chunksWithin file.length file

/-- The end marker (R104). -/
def endMarker (ident : Half) : List Byte := packetBytes [] Config.typeEchoReply ident Config.endSeq

/-- The data packets from sequence number `k` on: chunk after chunk with the next number (R106, R107). A number of 0x10000
or more does not fit the 16-bit field and is truncated to it, and the number 0xFFFF is written as it is: DESIGN CHOICE
(assumption log 17), as the spec says neither beyond MAX_CHUNKS chunks (93_implementation_defined.md U4). Within the bound
of R114 no number exceeds 0xFFFD. -/
def dataPackets (ident : Half) : Nat → List (List Byte) → List (List Byte)
  | _, [] => []
  | k, c :: cs => packetBytes c Config.typeEchoReply ident (BitVec.ofNat 16 k) :: dataPackets ident (k + 1) cs

/-- The stream of a file (R106, R108): its data packets, then the end marker. It is the spec's stream for a file of at most
MAX_CHUNKS chunks (R114); beyond the bound its value is the model's choice (assumption log 17). -/
def streamOf (ident : Half) (file : List Byte) : List (List Byte) :=
  dataPackets ident 0 (chunks file) ++ [endMarker ident]

end Sys2Proof.Machine
end

