-- ==== Sys2Proof/Safety.lean ====
section
/-! DEFINITION. The terms in which claims speak: what the engine's registers mean (10_state.md R16), what holds in every
state the block can reach (R12, R15, R20, R21, R54), and what a host observes (92_eei_decisions.md D26). -/

namespace Sys2Proof.Machine

/-- The complete 16-bit words of the absorbed bytes, as bytes: `A[0 .. 2*(n div 2) - 1]` (R16). -/
def evenPrefix (A : List Byte) : List Byte := A.take (2 * (A.length / 2))

/-- The engine's registers are those of the absorbed sequence `A` (R16, its three lines). -/
structure EngineHolds (A : List Byte) (b : Block) : Prop where
  half : b.half = (A.length % 2 == 1)
  hold : b.hold = if A.length % 2 = 1 then A.getLastD 0#8 else 0#8
  acc : b.acc = BitVec.ofNat 16 (fold16 (wsum (evenPrefix A)))

/-- The bytes absorbed after a command, from those absorbed before it (R67, R68, R69, R96; a refused command changes
nothing, R124). -/
def absorbedAfter (faulted : Bool) (A : List Byte) : Instr → List Byte
  | .reset => []
  | .csclr => if faulted then A else []
  | .csbyte b => if faulted then A else A ++ [b]
  | .csword w => if faulted then A else A ++ be16 w
  | .rdsr _ | .csget | .pftype _ | .pfid _ | .pfseq _ | .pfclr | .pfpush _ | .pfbuild | .pfrd _ => A

/-- The bytes absorbed after one step of the machine: a hardware reset is a clear, a command counts as above, and no
other step reaches the block. -/
def absorbedByStep (s : State) (A : List Byte) : List Byte :=
  if s.hwReset then []
  else
    match s.port with
    | .command w =>
      match decode w with
      | .command i => absorbedAfter s.block.fault A i
      | .illegal _ => A
    | .response _ | .idle => A

/-- What holds of the block in every state it can reach. -/
structure Block.Inv (b : Block) : Prop where
  /-- `FAULT = 0` if and only if `CAUSE = 0` (R12). -/
  faultIffCause : b.fault = false ↔ b.cause = 0#8
  /-- The codes 5 to 0xFF are never produced (60_exceptions.md R117, U8). -/
  causeAtMost4 : b.cause.toNat ≤ 4
  /-- `HOLD` never shows a stale byte (R15). -/
  holdZero : b.half = false → b.hold = 0#8
  /-- The buffers keep their bounds (R20, R21). -/
  memWf : b.mem.wf = true
  /-- `PKT` is empty or a packet that `buildPacket` returns (R21, R54). -/
  pktBuilt : b.mem.pkt = [] ∨ ∃ P T I S, buildPacket P T I S = some b.mem.pkt

/-- The host is not running a transfer, has nothing outstanding, and no reset event is waiting: it is at work on its
script alone. -/
structure Scripted (s : State) : Prop where
  noReset : s.hwReset = false
  idle : s.port = .idle
  noTransfer : s.host.driver.phase.active = false

/-- The response words to a command sequence, oldest first: the observation of the block alone (D26). -/
def responsesTo : List Word → State → List Word
  | [], _ => []
  | w :: rest, s =>
    match runCommand w s with
    | .next t =>
      match t.port with
      | .response r => r :: responsesTo rest t
      | .command _ | .idle => responsesTo rest t
    | .fault _ | .refused _ => []

/-- `k` steps of the machine. -/
abbrev run (k : Nat) (s : State) : Result := Sys2Proof.core.run k s

end Sys2Proof.Machine
end

