-- ==== Sys2Proof/Certificates/Slice0/Obligations.lean ====
section
/-! DEFINITION. The statements about the model, most of them numbered rules of spec/. Each docstring names the rule. A
response word is written with its fields: bit 31 `F`, bits 30:24 zero, bits 23:16 `CAUSE`, bits 15:0 `DATA`
(30_encoding.md R50), so `0#16 ++ d` is the response `DATA = d` of a block that is not FAULTED. -/

open Sys2Proof Sys2Proof.Machine

/-! ### Encoding: 30_encoding.md -/

/-- Every well-formed command, with every operand its form admits, is what the decoder reads from its word
(R47, R48, R49). -/
def Obligations.DecodeOfEncodeIsTheCommand : Prop :=
  ∀ i : Instr, i.WellFormed = true → decode (encode i) = .command i

/-- A word that decodes to a command is that command's one encoding, and the command is well formed: no two words mean
the same command (R49; D3: every word has exactly one meaning). -/
def Obligations.EncodeOfDecodeIsTheWord : Prop :=
  ∀ (w : Word) (i : Instr), decode w = .command i → i.WellFormed = true ∧ encode i = w

/-- "A word `cmd` is the command of a row exactly when `cmd AND mask = match`", and the thirteen patterns are disjoint
(R48, second table). -/
def Obligations.CommandsMatchTheirTableRow : Prop :=
  (∀ (w : Word), ∀ row ∈ opcodeRows,
    (w &&& row.mask = row.pattern ↔ ∃ i, decode w = .command i ∧ i.opcode = row.op)) ∧
  (∀ (w : Word), ∀ row ∈ opcodeRows, ∀ row' ∈ opcodeRows,
    w &&& row.mask = row.pattern → w &&& row'.mask = row'.pattern → row = row')

/-- The illegal words are exactly the five kinds listed, the all-zero and the all-ones word among them; an illegal word
raises ILLEGAL_COMMAND when the block is not FAULTED and is refused when it is (R52). -/
def Obligations.IllegalWordsAreThoseListed : Prop :=
  (∀ w : Word, (∃ why, decode w = .illegal why) ↔
    mbzField w ≠ 0#8 ∨
    opField w ∉ [0x01#8, 0x02#8, 0x10#8, 0x11#8, 0x12#8, 0x13#8, 0x20#8, 0x21#8, 0x22#8, 0x23#8, 0x24#8, 0x25#8,
      0x26#8] ∨
    (opField w ∈ [0x01#8, 0x10#8, 0x13#8, 0x23#8, 0x25#8] ∧ argField w ≠ 0#16) ∨
    (opField w ∈ [0x11#8, 0x20#8, 0x24#8] ∧ (argField w).extractLsb' 8 8 ≠ 0#8) ∨
    (opField w = 0x02#8 ∧ 8 ≤ (argField w).toNat)) ∧
  (∃ why, decode 0x00000000#32 = .illegal why) ∧ (∃ why, decode 0xFFFFFFFF#32 = .illegal why) ∧
  (∀ (w : Word) (why : Illegal) (s : State), decode w = .illegal why →
    (s.block.fault = false → runCommand w s =
      .next { s with block := { s.block with fault := true, cause := 1#8 }, port := .response 0x80010000#32 }) ∧
    (s.block.fault = true → runCommand w s =
      .next { s with port := .response (0x80#8 ++ s.block.cause ++ 0#16) }))

/-- Words written out from R48's table decode to their commands (R46, R48; the words of 95_test_vectors.md V-DEC-1). -/
def Obligations.TableWordsDecode : Prop :=
  decode 0x01000000#32 = .command .reset ∧ decode 0x02000007#32 = .command (.rdsr 7#16) ∧
  decode 0x110000FF#32 = .command (.csbyte 0xFF#8) ∧ decode 0x1200FFFF#32 = .command (.csword 0xFFFF#16) ∧
  decode 0x20000003#32 = .command (.pftype 3#8) ∧ decode 0x210004A8#32 = .command (.pfid 1192#16) ∧
  decode 0x25000000#32 = .command .pfbuild ∧ decode 0x2600FFFF#32 = .command (.pfrd 0xFFFF#16)

/-! ### The step of the block: 60_exceptions.md R121 to R125 -/

/-- With a command word outstanding, one step of the machine is the meaning of the decoded command at that state: there
is nothing to fetch, nothing moves past the word, and the meaning itself puts the response on the port. `withFetchWord`
places the word so. The first clause is R123's first line (R46: one word is one command); the second speaks of a word
loaded from outside, where a waiting reset event is cleared and what the port holds is replaced by the load: both are the
model's choice (assumption logs 3 and 18). -/
def Obligations.StepRunsTheDecodedCommand : Prop :=
  (∀ (s : State) (w : Word) (i : Instr), s.hwReset = false → s.port = .command w → decode w = .command i →
    step s = exec i s) ∧
  (∀ (s : State) (i : Instr), i.WellFormed = true →
    step (s.withFetchWord 32 (encode i).toNat) = exec i { s with port := .command (encode i), hwReset := false })

/-- The top-level step of the block and the order of its tests: while FAULTED only a legal RESET and a legal RDSR
execute and everything else, an illegal word too, is refused; otherwise an illegal word raises ILLEGAL_COMMAND and a
command runs (R123). -/
def Obligations.TopLevelStepOrder : Prop :=
  ∀ (s : State) (w : Word), s.hwReset = false → s.port = .command w →
    (s.block.fault = true →
      (decode w = .command .reset → step s = exec .reset s) ∧
      (∀ n, decode w = .command (.rdsr n) →
        step s = exec (.rdsr n) s ∧
        ∃ t, step s = .next t ∧ t.block.fault = s.block.fault ∧ t.block.cause = s.block.cause) ∧
      (decode w ≠ .command .reset → (∀ n, decode w ≠ .command (.rdsr n)) →
        step s = .next { s with port := .response (0x80#8 ++ s.block.cause ++ 0#16) })) ∧
    (s.block.fault = false →
      (∀ why, decode w = .illegal why → step s =
        .next { s with block := { s.block with fault := true, cause := 1#8 }, port := .response 0x80010000#32 }) ∧
      (∀ i, decode w = .command i → step s = exec i s))

/-- The FAULTED state is absorbing: through any sequence of command words without a RESET the block computes nothing
more, every register and buffer and the first cause stay, and every command other than a legal RDSR is answered
`1 ++ 0000000 ++ CAUSE ++ 0x0000` (R124, R125, 10_state.md R12). -/
def Obligations.FaultedBlockIsAbsorbing : Prop :=
  ∀ (ws : List Word) (s : State), s.block.fault = true → (∀ w ∈ ws, decode w ≠ .command .reset) →
    (∃ t, runCommands ws s = .next t ∧ t.block = s.block) ∧
    ((∀ w ∈ ws, ∀ n, decode w ≠ .command (.rdsr n)) →
      responsesTo ws s = ws.map fun _ => 0x80#8 ++ s.block.cause ++ 0#16)

/-- `FAULT` is set only by fault entry, with the code of one of the four causes, and cleared only by a reset
(10_state.md R11, R12, 60_exceptions.md R117, R121, R125). For any step of the machine: what clears it is a hardware reset
event or the word 0x01000000; what sets it is an outstanding word that is illegal, a PFBUILD of an unsupported type, a PFPUSH
at the bound or a PFRD beyond the packet. The last clause says the same of the meaning of any command, also of an ill-formed
term. That a reset event waits in a field of its own is the model's choice (assumption log 5). -/
def Obligations.FaultSetByEntryClearedByReset : Prop :=
  (∀ s t : State, step s = .next t →
    (s.block.fault = true → t.block.fault = false → s.hwReset = true ∨ s.port = .command 0x01000000#32) ∧
    (s.block.fault = false → t.block.fault = true → s.hwReset = false ∧ ∃ w, s.port = .command w ∧
      ((t.block.cause = 1#8 ∧ ∃ why, decode w = .illegal why) ∨
       (t.block.cause = 2#8 ∧ decode w = .command .pfbuild ∧ s.block.ptype ≠ 0x00#8 ∧ s.block.ptype ≠ 0x08#8) ∨
       (t.block.cause = 3#8 ∧ (∃ b, decode w = .command (.pfpush b)) ∧ ¬ s.block.mem.pay.length < 32) ∨
       (t.block.cause = 4#8 ∧ ∃ j : Half, decode w = .command (.pfrd j) ∧ s.block.mem.pkt.length ≤ j.toNat)))) ∧
  (∀ (i : Instr) (s t : State), exec i s = .next t →
    (s.block.fault = true → t.block.fault = false → i = .reset) ∧
    (s.block.fault = false → t.block.fault = true →
      (t.block.cause = 1#8 ∧ i.WellFormed = false) ∨
      (t.block.cause = 2#8 ∧ i = .pfbuild ∧ s.block.ptype ≠ 0x00#8 ∧ s.block.ptype ≠ 0x08#8) ∨
      (t.block.cause = 3#8 ∧ (∃ b, i = .pfpush b) ∧ ¬ s.block.mem.pay.length < 32) ∨
      (t.block.cause = 4#8 ∧ ∃ j : Half, i = .pfrd j ∧ s.block.mem.pkt.length ≤ j.toNat)))

/-- Every command word, legal or not, in every state, is answered in the same step with a response whose fields are
those of R50: `F` and `CAUSE` as they are after the command, bits 30:24 zero, and `DATA` zero when the command faulted
or was refused. Nothing of the host changes (R50; R142). -/
def Obligations.EveryCommandIsAnswered : Prop :=
  ∀ (w : Word) (s : State), ∃ (t : State) (r : Word), runCommand w s = .next t ∧ t.port = .response r ∧
    t.host = s.host ∧ t.hwReset = s.hwReset ∧
    respF r = t.block.fault ∧ r.extractLsb' 24 7 = 0#7 ∧
    respCause r = (if t.block.fault then t.block.cause else 0#8) ∧
    (s.block.fault = false → t.block.fault = true → respData r = 0#16) ∧
    (s.block.fault = true → decode w ≠ .command .reset → (∀ n, decode w ≠ .command (.rdsr n)) →
      respData r = 0#16)

/-- The answer and the next block depend on the block and the command word alone: no other state of the machine can be
seen through a response (10_state.md R27; 93_implementation_defined.md: every response is a function of the state and
the command word). -/
def Obligations.ResponseDependsOnBlockAndWord : Prop :=
  ∀ (w : Word) (s s' : State), s.block = s'.block →
    ∃ t t', runCommand w s = .next t ∧ runCommand w s' = .next t' ∧ t.block = t'.block ∧ t.port = t'.port

/-! ### System commands and reset: 42_system_commands.md, 70_reset_and_hazards.md -/

/-- RESET returns every piece of state to its reset value, in the normal and in the FAULTED state alike, and answers
0x00000000; its effect on the block is that of a hardware reset; in the reset state it changes nothing; no other command
clears `FAULT`, and no word but 0x01000000 is RESET (R96 with the values of 10_state.md R29). -/
def Obligations.ResetRestoresEveryRegister : Prop :=
  (∀ w : Word, decode w = .command .reset ↔ w = 0x01000000#32) ∧
  (∀ s : State, exec .reset s = .next { s with
    block := { fault := false, cause := 0#8, acc := 0#16, half := false, hold := 0#8, ptype := 0#8, ident := 0#16,
               seq := 0#16, mem := { pay := [], pkt := [] } },
    port := .response 0x00000000#32 }) ∧
  (∀ s t : State, exec .reset s = .next t → t.block = (hardwareReset s).block) ∧
  (∀ s t : State, s.block = State.reset.block → exec .reset s = .next t → t.block = s.block) ∧
  (∀ (i : Instr) (s t : State), exec i s = .next t → s.block.fault = true → t.block.fault = false → i = .reset)

/-- A hardware reset event gives the block the values of 10_state.md R29; what stands on the port and in the host stays
(R133; that it falls between two moves and leaves the port alone is the model's choice, assumption log 5). -/
def Obligations.HardwareResetRestoresEveryRegister : Prop :=
  ∀ s : State, s.hwReset = true → step s = .next { s with
    block := { fault := false, cause := 0#8, acc := 0#16, half := false, hold := 0#8, ptype := 0#8, ident := 0#16,
               seq := 0#16, mem := { pay := [], pkt := [] } },
    hwReset := false }

/-- The block executes nothing until the host sends a command: in every state without a waiting reset event, a step that
finds no command on the port leaves the block as it is, whatever the host does (R134, 10_state.md R26). A host with an empty
script and no transfer running makes no move, so with nothing outstanding the whole machine stays as it is, and so it does
from reset with nothing placed: these two clauses are the model's choice (assumption log 3). -/
def Obligations.ResetMachineIsQuiet : Prop :=
  (∀ s t : State, s.hwReset = false → (∀ w, s.port ≠ .command w) → step s = .next t → t.block = s.block) ∧
  (∀ s : State, s.hwReset = false → s.port = .idle → s.host.script = [] → s.host.driver.phase.active = false →
    step s = .next s) ∧
  (∀ k, run k State.reset = .next State.reset)

/-- RDSR `n` answers `SR[n]` and changes nothing, also while FAULTED, where the response carries `F` and `CAUSE`; a
reserved number is an illegal command (R97, with the register table of 10_state.md R22 and STATUS of R23). -/
def Obligations.RdsrReadsTheNumberedRegister : Prop :=
  (∀ n : Half, n.toNat ≤ 7 → encode (.rdsr n) = 0x02000000#32 + n.setWidth 32) ∧
  (∀ (s : State) (n v : Half),
    ([s.block.cause ++ 0#6 ++ BitVec.ofBool s.block.half ++ BitVec.ofBool s.block.fault, s.block.acc,
      s.block.hold.setWidth 16, s.block.ptype.setWidth 16, s.block.ident, s.block.seq,
      BitVec.ofNat 16 s.block.mem.pay.length, BitVec.ofNat 16 s.block.mem.pkt.length] : List Half)[n.toNat]? = some v →
    exec (.rdsr n) s =
      .next { s with port := .response ((if s.block.fault then 0x80#8 ++ s.block.cause else 0#16) ++ v) }) ∧
  (∀ (s : State) (n : Half), 8 ≤ n.toNat →
    (∀ w, decode w ≠ .command (.rdsr n)) ∧
    (s.block.fault = false → exec (.rdsr n) s =
      .next { s with block := { s.block with fault := true, cause := 1#8 }, port := .response 0x80010000#32 }) ∧
    (s.block.fault = true → exec (.rdsr n) s =
      .next { s with port := .response (0x80#8 ++ s.block.cause ++ 0#16) }))

/-! ### The Checksum Engine: 00_scope.md section 6.3, 40_checksum_engine.md -/

/-- The fold: 0 for 0, and otherwise the one number of 1 to 0xFFFF in the residue class modulo 0xFFFF; the add with
end-around carry is the fold of the sum; folding early does not matter; so the running sum of words is the folded sum
(R66 (a) to (d)). -/
def Obligations.RunningSumIsTheFoldedSum : Prop :=
  (fold16 0 = 0) ∧
  (∀ s r : Nat, 0 < s → (fold16 s = r ↔ 1 ≤ r ∧ r ≤ 0xFFFF ∧ r % 0xFFFF = s % 0xFFFF)) ∧
  (∀ a b : Half, (onesAdd16 a b).toNat = fold16 (a.toNat + b.toNat)) ∧
  (∀ (x : Nat) (w : Half), fold16 (fold16 x + w.toNat) = fold16 (x + w.toNat)) ∧
  (∀ ws : List Half, (ws.foldl onesAdd16 0#16).toNat = fold16 (ws.map BitVec.toNat).sum)

/-- `ones_add16` is commutative and associative, 0x0000 is its identity, 0xFFFF is a second zero on non-zero values, a
value and its complement give 0xFFFF, the result is 0 only for two zeros, and the order of the words of a buffer does
not change their sum (R71). -/
def Obligations.OnesAddLaws : Prop :=
  (∀ a b, onesAdd16 a b = onesAdd16 b a) ∧
  (∀ a b c, onesAdd16 (onesAdd16 a b) c = onesAdd16 a (onesAdd16 b c)) ∧
  (∀ a, onesAdd16 a 0#16 = a) ∧
  (∀ a, a ≠ 0#16 → onesAdd16 a 0xFFFF#16 = a) ∧ onesAdd16 0#16 0xFFFF#16 = 0xFFFF#16 ∧
  (∀ a, onesAdd16 a (not16 a) = 0xFFFF#16) ∧
  (∀ a b, onesAdd16 a b = 0#16 → a = 0#16 ∧ b = 0#16) ∧
  (∀ ws ws' : List Half, ws.Perm ws' → ws.foldl onesAdd16 0#16 = ws'.foldl onesAdd16 0#16)

/-- The checksum of an odd-length buffer is that of the buffer with one zero byte appended (R64 (b)). -/
def Obligations.OddBufferChecksumIsThatOfThePadded : Prop :=
  ∀ B : List Byte, B.length % 2 = 1 → computeChecksum B = computeChecksum (B ++ [0#8])

/-- The result 0xFFFF arises exactly from an empty or all-zero buffer, the result 0x0000 exactly when the word sum is a
non-zero multiple of 0xFFFF; neither gets a special treatment (R65, decision D32). -/
def Obligations.ExtremeChecksumValues : Prop :=
  ∀ B : List Byte,
    (computeChecksum B = 0xFFFF#16 ↔ ∀ b ∈ B, b = 0#8) ∧
    (computeChecksum B = 0x0000#16 ↔ wsum B ≠ 0 ∧ wsum B % 0xFFFF = 0)

/-- The validation law: with the checksum of a buffer written, big-endian, over two zero bytes at an even offset, the
buffer's checksum is 0x0000 (R72). -/
def Obligations.ChecksummedBufferValidates : Prop :=
  ∀ (B : List Byte) (j : Nat), j % 2 = 0 → j + 1 < B.length → B[j]? = some 0#8 → B[j + 1]? = some 0#8 →
    computeChecksum ((B.set j (hi8 (computeChecksum B))).set (j + 1) (lo8 (computeChecksum B))) = 0x0000#16

/-- CSCLR clears the engine's three registers and touches nothing else; after it no byte is absorbed (R67). -/
def Obligations.CsclrClearsTheEngine : Prop :=
  encode .csclr = 0x10000000#32 ∧
  (∀ s : State, s.block.fault = false → exec .csclr s = .next { s with
    block := { s.block with acc := 0#16, half := false, hold := 0#8 }, port := .response 0x00000000#32 }) ∧
  (∀ s t : State, s.block.fault = false → exec .csclr s = .next t → EngineHolds [] t.block)

/-- CSBYTE keeps the byte as a pending high byte, or completes a word with it: it appends the byte to the absorbed
sequence (R68). -/
def Obligations.CsbyteAbsorbsOneByte : Prop :=
  (∀ b : Byte, encode (.csbyte b) = 0x11000000#32 + b.setWidth 32) ∧
  (∀ (s : State) (b : Byte), s.block.fault = false → s.block.half = false → exec (.csbyte b) s = .next { s with
    block := { s.block with hold := b, half := true }, port := .response 0x00000000#32 }) ∧
  (∀ (s : State) (b : Byte), s.block.fault = false → s.block.half = true → exec (.csbyte b) s = .next { s with
    block := { s.block with acc := onesAdd16 s.block.acc (s.block.hold ++ b), hold := 0#8, half := false },
    port := .response 0x00000000#32 }) ∧
  (∀ (s t : State) (b : Byte) (A : List Byte), s.block.fault = false → EngineHolds A s.block →
    exec (.csbyte b) s = .next t → EngineHolds (A ++ [b]) t.block)

/-- CSWORD absorbs two bytes, high byte first, at either phase: it is exactly CSBYTE of its high byte followed by
CSBYTE of its low byte, as one command (R69). Where `HALF = 0` the two agree in every state with `HOLD = 0`, which R15
says of every state. -/
def Obligations.CswordAbsorbsTwoBytes : Prop :=
  (∀ w : Half, encode (.csword w) = 0x12000000#32 + w.setWidth 32) ∧
  (∀ (s : State) (w : Half), s.block.fault = false → s.block.half = false → exec (.csword w) s = .next { s with
    block := { s.block with acc := onesAdd16 s.block.acc w }, port := .response 0x00000000#32 }) ∧
  (∀ (s : State) (w : Half), s.block.fault = false → s.block.half = true → exec (.csword w) s = .next { s with
    block := { s.block with acc := onesAdd16 s.block.acc (s.block.hold ++ hi8 w), hold := lo8 w },
    port := .response 0x00000000#32 }) ∧
  (∀ (s : State) (w : Half), s.block.fault = false → (s.block.half = false → s.block.hold = 0#8) →
    exec (.csword w) s = execAll [.csbyte (hi8 w), .csbyte (lo8 w)] s)

/-- CSGET answers the complement of the sum with a pending byte padded by a zero byte, changes no state, and that answer
is `computeChecksum` of the absorbed bytes (R70). -/
def Obligations.CsgetAnswersTheChecksum : Prop :=
  encode .csget = 0x13000000#32 ∧
  (∀ s : State, s.block.fault = false → s.block.half = false →
    exec .csget s = .next { s with port := .response (0#16 ++ ~~~s.block.acc) }) ∧
  (∀ s : State, s.block.fault = false → s.block.half = true →
    exec .csget s = .next { s with port := .response (0#16 ++ ~~~(onesAdd16 s.block.acc (s.block.hold ++ 0x00#8))) }) ∧
  (∀ (s : State) (A : List Byte), s.block.fault = false → EngineHolds A s.block →
    exec .csget s = .next { s with port := .response (0#16 ++ computeChecksum A) })

/-- The invariant of the engine: `HALF`, `HOLD` and `ACC` are those of the bytes absorbed since the last clear, after
reset and after every step of the machine whatever it is; `ACC = 0` only if every complete word absorbed is zero, and
once it is not 0 it stays so until the next clear (10_state.md R16). -/
def Obligations.EngineHoldsTheAbsorbedBytes : Prop :=
  EngineHolds [] State.reset.block ∧
  (∀ (s t : State) (A : List Byte), EngineHolds A s.block → step s = .next t →
    EngineHolds (absorbedByStep s A) t.block) ∧
  (∀ (b : Block) (A : List Byte), EngineHolds A b → b.acc = 0#16 → ∀ x ∈ evenPrefix A, x = 0#8) ∧
  (∀ (i : Instr) (s t : State), exec i s = .next t → i ≠ .reset → i ≠ .csclr → s.block.acc ≠ 0#16 →
    t.block.acc ≠ 0#16)

/-- CSCLR, one CSBYTE per byte and CSGET compute the source's function of the bytes, whatever was absorbed before, and
leave the framer alone (R73, R62 CHECKSUM). -/
def Obligations.ChecksumProcedureComputesTheFunction : Prop :=
  ∀ (s : State) (B : List Byte), s.block.fault = false →
    ∃ t, execAll (checksumProc B) s = .next t ∧ t.port = .response (0#16 ++ computeChecksum B) ∧
      t.block.fault = false ∧ t.block.mem = s.block.mem ∧ t.block.ptype = s.block.ptype ∧
      t.block.ident = s.block.ident ∧ t.block.seq = s.block.seq

/-! ### The Packet Framer: 41_packet_framer.md -/

/-- PFTYPE, PFID and PFSEQ store their operand, whatever its value, and write nothing else; `SEQ` changes only by PFSEQ
and reset (R81, R82, R83). -/
def Obligations.OperandCommandsStoreTheirOperand : Prop :=
  (∀ b : Byte, encode (.pftype b) = 0x20000000#32 + b.setWidth 32) ∧
  (∀ w : Half, encode (.pfid w) = 0x21000000#32 + w.setWidth 32) ∧
  (∀ w : Half, encode (.pfseq w) = 0x22000000#32 + w.setWidth 32) ∧
  (∀ (s : State) (b : Byte), s.block.fault = false → exec (.pftype b) s =
    .next { s with block := { s.block with ptype := b }, port := .response 0x00000000#32 }) ∧
  (∀ (s : State) (w : Half), s.block.fault = false → exec (.pfid w) s =
    .next { s with block := { s.block with ident := w }, port := .response 0x00000000#32 }) ∧
  (∀ (s : State) (w : Half), s.block.fault = false → exec (.pfseq w) s =
    .next { s with block := { s.block with seq := w }, port := .response 0x00000000#32 }) ∧
  (∀ (i : Instr) (s t : State), exec i s = .next t → i ≠ .reset → (∀ w, i ≠ .pfseq w) → t.block.seq = s.block.seq)

/-- PFCLR empties the payload buffer, leaves the packet and the operands, and an immediate PFBUILD of a legal type builds
the packet with the empty payload, 8 bytes (R84). -/
def Obligations.PfclrEmptiesThePayload : Prop :=
  encode .pfclr = 0x23000000#32 ∧
  (∀ s : State, s.block.fault = false → exec .pfclr s = .next { s with
    block := { s.block with mem := { s.block.mem with pay := [] } }, port := .response 0x00000000#32 }) ∧
  (∀ s t u : State, s.block.fault = false → legalType s.block.ptype = true → exec .pfclr s = .next t →
    exec .pfbuild t = .next u →
    some u.block.mem.pkt = buildPacket [] s.block.ptype s.block.ident s.block.seq ∧ u.block.mem.pkt.length = 8)

/-- PFPUSH with `PLEN < 32` appends the byte; the byte is then read at `PAY+PLEN`, the address the meaning stores to,
and every other address of both buffers reads as before (R85). -/
def Obligations.PfpushAppendsOneByte : Prop :=
  (∀ b : Byte, encode (.pfpush b) = 0x24000000#32 + b.setWidth 32) ∧
  (∀ (s : State) (b : Byte), s.block.fault = false → s.block.mem.pay.length < 32 → exec (.pfpush b) s = .next { s with
    block := { s.block with mem := { s.block.mem with pay := s.block.mem.pay ++ [b] } },
    port := .response 0x00000000#32 }) ∧
  (∀ (s t : State) (b : Byte), s.block.fault = false → s.block.mem.pay.length < 32 → exec (.pfpush b) s = .next t →
    t.block.plen = s.block.plen + 1 ∧ t.block.mem.read s.block.pushAddr = some b ∧
    ∀ a : Addr, a ≠ s.block.pushAddr → t.block.mem.read a = s.block.mem.read a)

/-- A PFPUSH that arrives when `PLEN = 32` raises PAYLOAD_OVERFLOW, cause code 3: the byte is dropped and `PAY` and
`PLEN` are unchanged (R86; response by 60_exceptions.md R121). -/
def Obligations.PfpushOverflowDropsTheByte : Prop :=
  ∀ (s : State) (b : Byte), s.block.fault = false → s.block.mem.pay.length = 32 → exec (.pfpush b) s =
    .next { s with block := { s.block with fault := true, cause := 3#8 }, port := .response 0x80030000#32 }

/-- PFBUILD of a legal type makes `PKT` the packet that `buildPacket` returns for the payload and the operands, answers
`8 + PLEN`, and writes nothing else: the engine's registers, the operands and the payload stay (R89, R87). Every address
of PAY reads as before, and PKT reads the packet at offsets 0 to `7 + PLEN` and nothing beyond. -/
def Obligations.PfbuildBuildsThePacket : Prop :=
  encode .pfbuild = 0x25000000#32 ∧
  (∀ s : State, s.block.fault = false → s.block.ptype = 0x00#8 ∨ s.block.ptype = 0x08#8 → exec .pfbuild s =
    .next { s with
      block := { s.block with mem := { s.block.mem with
        pkt := packetBytes s.block.mem.pay s.block.ptype s.block.ident s.block.seq } },
      port := .response (0#16 ++ BitVec.ofNat 16 (8 + s.block.mem.pay.length)) }) ∧
  (∀ s t : State, s.block.fault = false → s.block.ptype = 0x00#8 ∨ s.block.ptype = 0x08#8 →
    s.block.mem.pay.length ≤ 32 → exec .pfbuild s = .next t →
    buildPacket s.block.mem.pay s.block.ptype s.block.ident s.block.seq = some t.block.mem.pkt ∧
    t.block.pktlen = 8 + s.block.plen ∧
    (∀ k, t.block.mem.read (.pay k) = s.block.mem.read (.pay k)) ∧
    (∀ k, t.block.mem.read (.pkt k) =
      (packetBytes s.block.mem.pay s.block.ptype s.block.ident s.block.seq)[k]?))

/-- PFBUILD with any other type builds nothing, sets `PKTLEN` to 0, raises BAD_TYPE, cause code 2, and leaves every other
register as it was; the invalid value can still be read with `RDSR 3`; the function itself has no result there
(R90, R78). -/
def Obligations.PfbuildBadTypeBuildsNothing : Prop :=
  ∀ s : State, s.block.fault = false → s.block.ptype ≠ 0x00#8 → s.block.ptype ≠ 0x08#8 →
    exec .pfbuild s = .next { s with
      block := { s.block with fault := true, cause := 2#8, mem := { s.block.mem with pkt := [] } },
      port := .response 0x80020000#32 } ∧
    (∀ P I S, buildPacket P s.block.ptype I S = none) ∧
    ∀ t, exec .pfbuild s = .next t → exec (.rdsr 3#16) t =
      .next { t with port := .response (0x80#8 ++ 2#8 ++ s.block.ptype.setWidth 16) }

/-- PFRD answers the byte at its offset, zero-extended, and changes no state (R91). -/
def Obligations.PfrdAnswersThePacketByte : Prop :=
  (∀ i : Half, encode (.pfrd i) = 0x26000000#32 + i.setWidth 32) ∧
  (∀ (s : State) (i : Half) (b : Byte), s.block.fault = false → s.block.mem.read (.pkt i.toNat) = some b →
    exec (.pfrd i) s = .next { s with port := .response (0#24 ++ b) }) ∧
  (∀ (s : State) (i : Half), i.toNat < s.block.mem.pkt.length ↔ ∃ b, s.block.mem.read (.pkt i.toNat) = some b)

/-- A PFRD whose offset is not below `PKTLEN` raises INDEX_RANGE, cause code 4; nothing is read; with `PKTLEN = 0` every
PFRD does so (R92). -/
def Obligations.PfrdBeyondThePacketFaults : Prop :=
  (∀ (s : State) (i : Half), s.block.fault = false → s.block.mem.pkt.length ≤ i.toNat → exec (.pfrd i) s =
    .next { s with block := { s.block with fault := true, cause := 4#8 }, port := .response 0x80040000#32 }) ∧
  (∀ (s : State) (i : Half), s.block.fault = false → s.block.mem.pkt = [] → exec (.pfrd i) s =
    .next { s with block := { s.block with fault := true, cause := 4#8 }, port := .response 0x80040000#32 })

/-- What `buildPacket` returns: (a) its checksum field is the checksum of the packet with that field zeroed; (b) packets
that differ only in the sequence differ at offsets 2, 3, 6 and 7 at most, they do differ in the sequence field, and
their checksum fields are equal only for the sequences 0x0000 and 0xFFFF with the rest of the packet not all zero; (c)
the packet's own checksum is 0x0000; (d) its fields lie where R53 says (R88). -/
def Obligations.BuiltPacketIsSelfConsistent : Prop :=
  (∀ P T I S K, buildPacket P T I S = some K →
    computeChecksum ((K.set 2 0#8).set 3 0#8) = word (K.getD 2 0#8) (K.getD 3 0#8) ∧
    computeChecksum K = 0x0000#16 ∧
    K.length = 8 + P.length ∧ K[0]? = some T ∧ K[1]? = some 0x00#8 ∧ K[4]? = some (hi8 I) ∧ K[5]? = some (lo8 I) ∧
    K[6]? = some (hi8 S) ∧ K[7]? = some (lo8 S) ∧ ∀ k, K[8 + k]? = P[k]?) ∧
  (∀ P T I S S' K K', S ≠ S' → buildPacket P T I S = some K → buildPacket P T I S' = some K' →
    (∀ k, k ≠ 2 → k ≠ 3 → k ≠ 6 → k ≠ 7 → K[k]? = K'[k]?) ∧
    (K[6]? ≠ K'[6]? ∨ K[7]? ≠ K'[7]?) ∧
    ((K[2]? = K'[2]? ∧ K[3]? = K'[3]?) ↔
      ((S = 0x0000#16 ∧ S' = 0xFFFF#16) ∨ (S = 0xFFFF#16 ∧ S' = 0x0000#16)) ∧
      ∃ b ∈ [T] ++ be16 I ++ P, b ≠ 0#8))

/-- PFTYPE, PFID, PFSEQ, PFCLR, one PFPUSH per byte and PFBUILD, from any state that is not FAULTED, make `PKT` the
packet of the four operands, answer its length, and leave the engine alone (R93, R62 BUILDPACKET). -/
def Obligations.BuildPacketProcedureBuildsThePacket : Prop :=
  ∀ (s : State) (P : List Byte) (T : Byte) (I S : Half) (K : List Byte), s.block.fault = false →
    buildPacket P T I S = some K →
    ∃ t, execAll (buildPacketProc T I S P) s = .next t ∧
      t.port = .response (0#16 ++ BitVec.ofNat 16 K.length) ∧
      t.block = { s.block with ptype := T, ident := I, seq := S, mem := { pay := P, pkt := K } }

/-! ### Whole-machine rules: 10_state.md R10, 20_memory.md R40 -/

/-- The column "written by" of R10's table: a command changes a register or a buffer only if the table names it, fault
entry apart, which writes `FAULT` and `CAUSE`. -/
def Obligations.RegistersChangeOnlyAsTabled : Prop :=
  ∀ (i : Instr) (s t : State), exec i s = .next t → i ≠ .reset →
    (t.host = s.host ∧ t.hwReset = s.hwReset) ∧
    ((∀ b, i ≠ .csbyte b) → (∀ w, i ≠ .csword w) → i ≠ .csclr →
      t.block.acc = s.block.acc ∧ t.block.half = s.block.half ∧ t.block.hold = s.block.hold) ∧
    ((∀ b, i ≠ .pftype b) → t.block.ptype = s.block.ptype) ∧
    ((∀ w, i ≠ .pfid w) → t.block.ident = s.block.ident) ∧
    ((∀ w, i ≠ .pfseq w) → t.block.seq = s.block.seq) ∧
    (i ≠ .pfclr → (∀ b, i ≠ .pfpush b) → ∀ k, t.block.mem.read (.pay k) = s.block.mem.read (.pay k)) ∧
    (i ≠ .pfbuild → ∀ k, t.block.mem.read (.pkt k) = s.block.mem.read (.pkt k)) ∧
    (t.block.fault = s.block.fault → t.block.cause = s.block.cause)

/-- No read has a side effect: RDSR, CSGET and PFRD leave the block as it is or raise a fault. A repeated PFTYPE, PFID,
PFSEQ, PFCLR or successful PFBUILD leaves the block that the first one left (R40). -/
def Obligations.ReadsChangeNothingAndSettersAreIdempotent : Prop :=
  (∀ (i : Instr) (s t : State), (∃ n, i = .rdsr n) ∨ i = .csget ∨ (∃ j, i = .pfrd j) → exec i s = .next t →
    t.block = s.block ∨ ∃ c : Cause, t.block = { s.block with fault := true, cause := c.code }) ∧
  (∀ (i : Instr) (s t u : State),
    (∃ b, i = .pftype b) ∨ (∃ w, i = .pfid w) ∨ (∃ w, i = .pfseq w) ∨ i = .pfclr ∨ i = .pfbuild →
    exec i s = .next t → t.block.fault = false → exec i t = .next u → u.block = t.block ∧ u.port = t.port)

/-- Every step keeps what holds of the block: `FAULT = 0` iff `CAUSE = 0`, no code above 4, no stale `HOLD`, the bounds of
both buffers, and that `PKT` is empty or a packet that `buildPacket` returns (R12, R15, R20, R21, R54). -/
def Obligations.BlockInvariantKeptByStep : Prop :=
  ∀ s t : State, s.block.Inv → step s = .next t → t.block.Inv

/-- The state after reset meets the invariant (R29). -/
def Obligations.ResetMeetsTheBlockInvariant : Prop := State.reset.block.Inv

/-! ### The host and its Transfer Driver: 20_memory.md R43, 30_encoding.md R61 and R62, 43_transfer_driver.md -/

/-- Commands take effect in the order the host issues them, one at a time, the response after all effects: a host that
works off a list of command words, three steps to a word, leaves the block that the fold of the block's step over the
list leaves, and has taken exactly the responses of that fold (R43). The count of three steps to a word is the model's
choice of what one step is (assumption log 1). -/
def Obligations.ScriptRunIsTheFoldOfCommands : Prop :=
  ∀ (ws : List Word) (rest : List HostOp) (s : State), Scripted s →
    s.host.script = ws.map .send ++ rest →
    ∃ t u, run (3 * ws.length) s = .next t ∧ runCommands ws s = .next u ∧ Scripted t ∧
      t.host.script = rest ∧ t.block = u.block ∧ t.host.observed = s.host.observed ++ responsesTo ws s

/-- READPACKET reads the built packet out: the bytes the host collects are the packet, and the block is as before
(R62, R91, R93). The count of 4 + 3 * PKTLEN steps is the model's choice of what one step is (assumption log 1). -/
def Obligations.ReadPacketReadsThePacketOut : Prop :=
  ∀ (s : State) (rest : List HostOp), Scripted s → s.block.fault = false →
    s.block.mem.wf = true → s.host.script = readPacketProc ++ rest →
    ∃ t, run (4 + 3 * s.block.mem.pkt.length) s = .next t ∧ Scripted t ∧ t.host.script = rest ∧
      t.host.bytes = s.block.mem.pkt ∧ t.block = s.block

/-- What the assembler makes of a line that is not a `.word` line has only legal words in it (R61: "it can never produce
an illegal word"). -/
def Obligations.AssemblerProducesNoIllegalWord : Prop :=
  ∀ (line : List Char) (ops : List HostOp), assembleLine line = .ok ops →
    (pieces ' ' (line.takeWhile (· ≠ ';'))).head? ≠ some ".word".toList →
    ∀ w, HostOp.send w ∈ ops → ∃ i, decode w = .command i

/-- The end-to-end property: for a file within the bound and a collaborator that never fails, `sendFile` comes to DONE
after 46 + 36 * chunks + 6 * size steps, having handed over exactly the packets of the stream, each once, in order, to
the destination (R108, R109, R113; R111 bounds the iterations). The step count is the model's choice of what one step is
(assumption log 1). Where the host has a list or a transfer under way, that `startTransfer` replaces it is the model's choice
(assumption log 18). -/
def Obligations.TransferSendsTheWholeStream : Prop :=
  ∀ (s : State) (file : List Byte) (dest : Word) (ident : Half) (net : List Bool),
    s.hwReset = false → s.port = .idle → (chunks file).length ≤ 0xFFFE →
    (∀ ok ∈ net, ok = true) → (chunks file).length + 1 ≤ net.length →
    ∃ t, run (46 + 36 * (chunks file).length + 6 * file.length) (s.startTransfer file dest ident net) = .next t ∧
      t.host.driver.phase = .done ∧ t.block.fault = false ∧
      t.host.driver.sent = (streamOf ident file).map fun K => (K, dest)

/-- A failure of `transmit` aborts the transfer at once: the packets before it and the one whose transmission failed were
handed over, nothing after them, the end marker included (R110). That the whole machine then stays as it is for every
further step, where R110 says that no further packet is sent, is the model's choice (assumption log 3: a host with nothing to
do makes no move). Where the host has a list or a transfer under way, that `startTransfer` replaces it is the model's choice
(assumption log 18). -/
def Obligations.TransmitFailureAbortsTheStream : Prop :=
  ∀ (s : State) (file : List Byte) (dest : Word) (ident : Half) (net : List Bool) (k : Nat),
    s.hwReset = false → s.port = .idle → (chunks file).length ≤ 0xFFFE →
    k ≤ (chunks file).length →
    ∃ n t, run n (s.startTransfer file dest ident (List.replicate k true ++ false :: net)) = .next t ∧
      t.host.driver.phase = .aborted .transmitFailed ∧
      t.host.driver.sent = ((streamOf ident file).take (k + 1)).map (fun K => (K, dest)) ∧
      ∀ m, run m t = .next t

/-- The stream of a file of `S` bytes within the bound of R114: `ceil(S/32) + 1` packets; data packet `k` carries sequence
`k`, which is never the reserved 0xFFFF, and the `k`-th 32-byte piece of the file, every one with 1 to 32 bytes of payload
and all but the last with 32; the payloads together are the file; the last packet, and no other, is the end marker (R106,
R113 (a) to (e), R104, R107). -/
def Obligations.StreamHasTheStatedShape : Prop :=
  ∀ (ident : Half) (file : List Byte), (chunks file).length ≤ 0xFFFE →
    (streamOf ident file).length = (file.length + 31) / 32 + 1 ∧
    (∀ k, k < (file.length + 31) / 32 →
      (streamOf ident file)[k]? =
        buildPacket ((file.drop (32 * k)).take 32) 0x00#8 ident (BitVec.ofNat 16 k) ∧
      (BitVec.ofNat 16 k).toNat = k ∧ BitVec.ofNat 16 k ≠ 0xFFFF#16 ∧
      (∀ K, (streamOf ident file)[k]? = some K → word (K.getD 6 0#8) (K.getD 7 0#8) = BitVec.ofNat 16 k) ∧
      1 ≤ ((file.drop (32 * k)).take 32).length ∧
      (k + 1 < (file.length + 31) / 32 → ((file.drop (32 * k)).take 32).length = 32)) ∧
    (streamOf ident file)[(file.length + 31) / 32]? = buildPacket [] 0x00#8 ident 0xFFFF#16 ∧
    (chunks file).flatten = file

/-- Beyond MAX_CHUNKS chunks the spec leaves the driver undefined; there the model refuses by name, and nowhere else
(U4, R114). -/
def Obligations.DriverRefusesOnlyBeyondTheBound : Prop :=
  (∀ s : State, s.hwReset = false → s.port = .idle → s.host.script = [] → s.host.driver.phase = .reading →
    s.host.driver.file ≠ [] → 0xFFFE ≤ s.host.driver.counter → step s = .refused .chunkBoundExceeded) ∧
  (∀ (s : State) (why : Refusal), step s = .refused why →
    why = .chunkBoundExceeded ∧ s.host.driver.phase = .reading ∧ s.host.driver.file ≠ [] ∧
    0xFFFE ≤ s.host.driver.counter)
end

