-- ==== Sys2Proof/Laws/Arith.lean ====
section
/-! SUPPORT. The arithmetic as natural numbers: bytes of a 16-bit value, the end-around add, one pass of the fold, and
the words of a buffer by the form of its list. -/

namespace Sys2Proof.Machine

@[simp] theorem word_hi8_lo8 (w : Half) : word (hi8 w) (lo8 w) = w := by
  ext i hi; simp [word, hi8, lo8]; grind

@[simp] theorem hi8_word (h l : Byte) : hi8 (word h l) = h := by
  ext i hi; simp [word, hi8]; grind

@[simp] theorem lo8_word (h l : Byte) : lo8 (word h l) = l := by
  ext i hi; simp [word, lo8]; grind

/-- `word(h, l) = 256 * h + l`. -/
theorem word_toNat (h l : Byte) : (word h l).toNat = 256 * h.toNat + l.toNat := by
  rw [word, BitVec.toNat_append, Nat.shiftLeft_eq, ← Nat.shiftLeft_eq, ← Nat.shiftLeft_add_eq_or_of_lt l.isLt,
    Nat.shiftLeft_eq]
  omega

/-- `NOT16(v) = 0xFFFF - v`. -/
theorem not16_toNat (v : Half) : (not16 v).toNat = 0xFFFF - v.toNat := by
  simp [not16, BitVec.toNat_not]

/-- The end-around add as numbers: a sum that fits stays, any other gives its low bits plus the carry. -/
theorem onesAdd16_toNat (a b : Half) :
    (onesAdd16 a b).toNat = if a.toNat + b.toNat < 0x10000 then a.toNat + b.toNat else a.toNat + b.toNat - 0xFFFF := by
  have ha := a.isLt
  have hb := b.isLt
  simp only [onesAdd16, BitVec.toNat_add, BitVec.extractLsb'_toNat, BitVec.toNat_setWidth, Nat.shiftRight_eq_div_pow]
  split <;> omega

/-- The loop stops at a value of 16 bits. -/
theorem foldLoop_of_le (fuel s : Nat) (h : s ≤ 0xFFFF) : foldLoop fuel s = s := by
  cases fuel <;> simp [foldLoop]; omega

/-- One pass of the loop. -/
theorem foldLoop_of_gt (fuel s : Nat) (h : 0xFFFF < s) :
    foldLoop (fuel + 1) s = foldLoop fuel (s % 0x10000 + s / 0x10000) := by
  simp [foldLoop, h]

/-- Each pass makes the value smaller. -/
theorem foldPass_lt (s : Nat) (h : 0xFFFF < s) : s % 0x10000 + s / 0x10000 < s := by omega

theorem padEven_of_even (B : List Byte) (h : B.length % 2 = 0) : padEven B = B := by simp [padEven, h]

theorem padEven_of_odd (B : List Byte) (h : B.length % 2 = 1) : padEven B = B ++ [0#8] := by simp [padEven, h]

@[simp] theorem wordsOf_nil : wordsOf [] = [] := rfl
@[simp] theorem wordsOf_single (b : Byte) : wordsOf [b] = [] := rfl
@[simp] theorem wordsOf_cons_cons (h l : Byte) (rest : List Byte) :
    wordsOf (h :: l :: rest) = word h l :: wordsOf rest := rfl

@[simp] theorem wsum_nil : wsum [] = 0 := rfl

/-- The sum of an odd last byte: it is the high byte of a word. -/
@[simp] theorem wsum_single (b : Byte) : wsum [b] = (word b 0#8).toNat := by simp [wsum, padEven]

/-- The sum word by word from the front. -/
@[simp] theorem wsum_cons_cons (h l : Byte) (rest : List Byte) :
    wsum (h :: l :: rest) = (word h l).toNat + wsum rest := by
  have e : (h :: l :: rest).length % 2 = rest.length % 2 := by simp; omega
  unfold wsum padEven
  rw [e]
  split <;> simp

end Sys2Proof.Machine
end

