-- ==== Sys2Proof/Laws/Decode.lean ====
section
/-! SUPPORT. The fields of a command word, read and put together. -/

namespace Sys2Proof.Machine

@[simp] theorem opField_commandWord (op : Byte) (arg : Half) : opField (commandWord op arg) = op := by
  ext i hi; simp [opField, commandWord]; grind

@[simp] theorem mbzField_commandWord (op : Byte) (arg : Half) : mbzField (commandWord op arg) = 0#8 := by
  ext i hi; simp [mbzField, commandWord]; grind

@[simp] theorem argField_commandWord (op : Byte) (arg : Half) : argField (commandWord op arg) = arg := by
  ext i hi; simp [argField, commandWord]; grind

/-- A word is its three fields. -/
theorem fields_append (w : Word) : opField w ++ mbzField w ++ argField w = w := by
  ext i hi; simp [opField, mbzField, argField]; grind

/-- A word whose must-be-zero field is zero is put together again from its opcode and its operand field. -/
theorem commandWord_fields (w : Word) (h : mbzField w = 0#8) : commandWord (opField w) (argField w) = w := by
  rw [commandWord, ← h]; exact fields_append w

/-- A command word as a number: the opcode in bits 31:24, the operand in bits 15:0. -/
theorem commandWord_toNat (op : Byte) (arg : Half) :
    (commandWord op arg).toNat = op.toNat * 0x1000000 + arg.toNat := by
  have h : (op ++ 0#8).toNat = op.toNat <<< 8 + (0#8).toNat := by
    rw [BitVec.toNat_append, ← Nat.shiftLeft_add_eq_or_of_lt (0#8).isLt]
  rw [commandWord, BitVec.toNat_append, ← Nat.shiftLeft_add_eq_or_of_lt arg.isLt, h]
  simp [Nat.shiftLeft_eq, Nat.mul_assoc]

/-! ### The argument forms -/

/-- A byte widened to an `arg` has a zero high half and is its own operand. -/
@[simp] theorem byteOperand_setWidth (b : Byte) : byteOperand (b.setWidth 16) = b := by
  ext i hi; simp [byteOperand, BitVec.getLsbD_eq_getElem hi]; omega

@[simp] theorem high_setWidth (b : Byte) : (b.setWidth 16).extractLsb' 8 8 = 0#8 := by
  ext i hi; simp

/-- An `arg` with a zero high half is its byte operand widened. -/
theorem setWidth_byteOperand (arg : Half) (h : arg.extractLsb' 8 8 = 0#8) : (byteOperand arg).setWidth 16 = arg := by
  have e := congrArg BitVec.toNat h
  have := arg.isLt
  apply BitVec.eq_of_toNat_eq
  simp [byteOperand, BitVec.extractLsb'_toNat, Nat.shiftRight_eq_div_pow] at e ⊢
  omega

theorem decodeN_eq (arg : Half) (i : Instr) :
    decodeN arg i = if arg = 0#16 then .command i else .illegal .argNotZero := by
  by_cases h : arg = 0#16 <;> simp [decodeN, ArgForm.legal, h]

theorem decodeB_eq (arg : Half) (mk : Byte → Instr) :
    decodeB arg mk =
      if arg.extractLsb' 8 8 = 0#8 then .command (mk (byteOperand arg)) else .illegal .argHighNotZero := by
  by_cases h : arg.extractLsb' 8 8 = 0#8 <;> simp [decodeB, ArgForm.legal, h]

theorem decodeS_eq (arg : Half) (mk : Half → Instr) :
    decodeS arg mk = if arg.toNat ≤ 7 then .command (mk arg) else .illegal .reservedRegister := by
  by_cases h : arg.toNat ≤ 7 <;> simp [decodeS, ArgForm.legal, h]

/-- A word that decodes has a zero must-be-zero field. -/
theorem decode_eq (w : Word) :
    decode w = if mbzField w = 0#8 then decodeOp (opField w) (argField w) else .illegal .mbzNotZero := rfl

theorem decode_commandWord (op : Byte) (arg : Half) : decode (commandWord op arg) = decodeOp op arg := by
  simp [decode_eq]

end Sys2Proof.Machine
end

