-- ==== Sys2Proof/Laws/State.lean ====
section
/-! SUPPORT. One lemma per field for each named update of a state, of a block and of the buffers, so that no later proof
unfolds a record update; and the values of the reset state. -/

namespace Sys2Proof.Machine

/-! ### Answering a command -/

@[simp] theorem State.answered_block (s : State) (b : Block) (d : Half) : (s.answered b d).block = b := rfl
@[simp] theorem State.answered_port (s : State) (b : Block) (d : Half) :
    (s.answered b d).port = .response (b.responseWord d) := rfl
@[simp] theorem State.answered_host (s : State) (b : Block) (d : Half) : (s.answered b d).host = s.host := rfl
@[simp] theorem State.answered_hwReset (s : State) (b : Block) (d : Half) :
    (s.answered b d).hwReset = s.hwReset := rfl

/-! ### Fault entry -/

@[simp] theorem Block.raised_fault (b : Block) (c : Cause) : (b.raised c).fault = true := rfl
@[simp] theorem Block.raised_cause (b : Block) (c : Cause) : (b.raised c).cause = c.code := rfl
@[simp] theorem Block.raised_acc (b : Block) (c : Cause) : (b.raised c).acc = b.acc := rfl
@[simp] theorem Block.raised_half (b : Block) (c : Cause) : (b.raised c).half = b.half := rfl
@[simp] theorem Block.raised_hold (b : Block) (c : Cause) : (b.raised c).hold = b.hold := rfl
@[simp] theorem Block.raised_ptype (b : Block) (c : Cause) : (b.raised c).ptype = b.ptype := rfl
@[simp] theorem Block.raised_ident (b : Block) (c : Cause) : (b.raised c).ident = b.ident := rfl
@[simp] theorem Block.raised_seq (b : Block) (c : Cause) : (b.raised c).seq = b.seq := rfl
@[simp] theorem Block.raised_mem (b : Block) (c : Cause) : (b.raised c).mem = b.mem := rfl

/-! ### The engine's updates: only ACC, HALF and HOLD -/

@[simp] theorem Block.csClear_acc (b : Block) : b.csClear.acc = 0#16 := rfl
@[simp] theorem Block.csClear_half (b : Block) : b.csClear.half = false := rfl
@[simp] theorem Block.csClear_hold (b : Block) : b.csClear.hold = 0#8 := rfl
@[simp] theorem Block.csClear_fault (b : Block) : b.csClear.fault = b.fault := rfl
@[simp] theorem Block.csClear_cause (b : Block) : b.csClear.cause = b.cause := rfl
@[simp] theorem Block.csClear_ptype (b : Block) : b.csClear.ptype = b.ptype := rfl
@[simp] theorem Block.csClear_ident (b : Block) : b.csClear.ident = b.ident := rfl
@[simp] theorem Block.csClear_seq (b : Block) : b.csClear.seq = b.seq := rfl
@[simp] theorem Block.csClear_mem (b : Block) : b.csClear.mem = b.mem := rfl

@[simp] theorem Block.csByte_half (b : Block) (x : Byte) : (b.csByte x).half = !b.half := by
  unfold Block.csByte; split <;> simp_all
@[simp] theorem Block.csByte_fault (b : Block) (x : Byte) : (b.csByte x).fault = b.fault := by
  unfold Block.csByte; split <;> rfl
@[simp] theorem Block.csByte_cause (b : Block) (x : Byte) : (b.csByte x).cause = b.cause := by
  unfold Block.csByte; split <;> rfl
@[simp] theorem Block.csByte_ptype (b : Block) (x : Byte) : (b.csByte x).ptype = b.ptype := by
  unfold Block.csByte; split <;> rfl
@[simp] theorem Block.csByte_ident (b : Block) (x : Byte) : (b.csByte x).ident = b.ident := by
  unfold Block.csByte; split <;> rfl
@[simp] theorem Block.csByte_seq (b : Block) (x : Byte) : (b.csByte x).seq = b.seq := by
  unfold Block.csByte; split <;> rfl
@[simp] theorem Block.csByte_mem (b : Block) (x : Byte) : (b.csByte x).mem = b.mem := by
  unfold Block.csByte; split <;> rfl

@[simp] theorem Block.csWord_half (b : Block) (w : Half) : (b.csWord w).half = b.half := by
  unfold Block.csWord; split <;> rfl
@[simp] theorem Block.csWord_fault (b : Block) (w : Half) : (b.csWord w).fault = b.fault := by
  unfold Block.csWord; split <;> rfl
@[simp] theorem Block.csWord_cause (b : Block) (w : Half) : (b.csWord w).cause = b.cause := by
  unfold Block.csWord; split <;> rfl
@[simp] theorem Block.csWord_ptype (b : Block) (w : Half) : (b.csWord w).ptype = b.ptype := by
  unfold Block.csWord; split <;> rfl
@[simp] theorem Block.csWord_ident (b : Block) (w : Half) : (b.csWord w).ident = b.ident := by
  unfold Block.csWord; split <;> rfl
@[simp] theorem Block.csWord_seq (b : Block) (w : Half) : (b.csWord w).seq = b.seq := by
  unfold Block.csWord; split <;> rfl
@[simp] theorem Block.csWord_mem (b : Block) (w : Half) : (b.csWord w).mem = b.mem := by
  unfold Block.csWord; split <;> rfl

/-! ### Resets, and placing a word -/

@[simp] theorem hardwareReset_block (s : State) : (hardwareReset s).block = Block.reset := rfl
@[simp] theorem hardwareReset_port (s : State) : (hardwareReset s).port = s.port := rfl
@[simp] theorem hardwareReset_host (s : State) : (hardwareReset s).host = s.host := rfl
@[simp] theorem hardwareReset_hwReset (s : State) : (hardwareReset s).hwReset = false := rfl

@[simp] theorem State.withFetchWord_block (s : State) (nbits w : Nat) : (s.withFetchWord nbits w).block = s.block := rfl
@[simp] theorem State.withFetchWord_host (s : State) (nbits w : Nat) : (s.withFetchWord nbits w).host = s.host := rfl
@[simp] theorem State.withFetchWord_hwReset (s : State) (nbits w : Nat) :
    (s.withFetchWord nbits w).hwReset = false := rfl
@[simp] theorem State.withFetchWord_port (s : State) (nbits w : Nat) :
    (s.withFetchWord nbits w).port = .command (BitVec.ofNat 32 (w % 2 ^ nbits)) := rfl

@[simp] theorem State.withScript_block (s : State) (p : List HostOp) : (s.withScript p).block = s.block := rfl
@[simp] theorem State.withScript_port (s : State) (p : List HostOp) : (s.withScript p).port = s.port := rfl
@[simp] theorem State.withScript_hwReset (s : State) (p : List HostOp) : (s.withScript p).hwReset = s.hwReset := rfl
@[simp] theorem State.withScript_script (s : State) (p : List HostOp) : (s.withScript p).host.script = p := rfl

@[simp] theorem State.reset_block : State.reset.block = Block.reset := rfl
@[simp] theorem State.reset_port : State.reset.port = .idle := rfl
@[simp] theorem State.reset_host : State.reset.host = HostAgent.idle := rfl
@[simp] theorem State.reset_hwReset : State.reset.hwReset = false := rfl

@[simp] theorem Block.reset_fault : Block.reset.fault = false := rfl
@[simp] theorem Block.reset_cause : Block.reset.cause = 0#8 := rfl
@[simp] theorem Block.reset_acc : Block.reset.acc = 0#16 := rfl
@[simp] theorem Block.reset_half : Block.reset.half = false := rfl
@[simp] theorem Block.reset_hold : Block.reset.hold = 0#8 := rfl
@[simp] theorem Block.reset_ptype : Block.reset.ptype = 0#8 := rfl
@[simp] theorem Block.reset_ident : Block.reset.ident = 0#16 := rfl
@[simp] theorem Block.reset_seq : Block.reset.seq = 0#16 := rfl
@[simp] theorem Block.reset_mem : Block.reset.mem = Memory.empty := rfl
@[simp] theorem Memory.empty_pay : Memory.empty.pay = [] := rfl
@[simp] theorem Memory.empty_pkt : Memory.empty.pkt = [] := rfl

/-! ### The buffers' writes -/

@[simp] theorem Memory.write_pay_pkt (m : Memory) (i : Nat) (b : Byte) : (m.write (.pay i) b).pkt = m.pkt := rfl
@[simp] theorem Memory.write_pkt_pay (m : Memory) (i : Nat) (b : Byte) : (m.write (.pkt i) b).pay = m.pay := rfl
@[simp] theorem Memory.write_pay_pay (m : Memory) (i : Nat) (b : Byte) :
    (m.write (.pay i) b).pay = bufWrite m.pay i b := rfl
@[simp] theorem Memory.write_pkt_pkt (m : Memory) (i : Nat) (b : Byte) :
    (m.write (.pkt i) b).pkt = bufWrite m.pkt i b := rfl

end Sys2Proof.Machine
end

