-- ==== Sys2Proof/Laws/Ops.lean ====
section
/-! SUPPORT. What each shared operation does, said once: the two buffers (read after write, the canonical form), the
response word's fields, answering, fault entry, refusal and the FAULTED test. -/

namespace Sys2Proof.Machine

/-! ### The buffers -/

/-- A write at the end of a buffer appends. -/
@[simp] theorem bufWrite_at_length (buf : List Byte) (b : Byte) : bufWrite buf buf.length b = buf ++ [b] := by
  simp [bufWrite]

/-- A write below the end replaces one byte. -/
theorem bufWrite_of_lt (buf : List Byte) (i : Nat) (b : Byte) (h : i < buf.length) :
    bufWrite buf i b = buf.set i b := by
  simp [bufWrite, Nat.ne_of_lt h]

/-- Read after write at the same index. -/
theorem bufWrite_read_same (buf : List Byte) (i : Nat) (b : Byte) (h : i ≤ buf.length) :
    (bufWrite buf i b)[i]? = some b := by
  rcases Nat.lt_or_eq_of_le h with h | rfl
  · simp [bufWrite_of_lt _ _ _ h, h]
  · simp

/-- A write leaves every other index as it was. -/
theorem bufWrite_read_other (buf : List Byte) (i j : Nat) (b : Byte) (h : j ≠ i) :
    (bufWrite buf i b)[j]? = buf[j]? := by
  unfold bufWrite
  split
  · subst i
    rcases Nat.lt_or_gt_of_ne h with h | h
    · simp [List.getElem?_append_left h]
    · simp [List.getElem?_append_right h.le, List.getElem?_eq_none h.le]; omega
  · simp [h.symm]

/-- Read after write at the same address, for an index that is not beyond the buffer. -/
theorem Memory.read_write_same (m : Memory) (a : Addr) (b : Byte)
    (h : match a with | .pay i => i ≤ m.pay.length | .pkt i => i ≤ m.pkt.length) :
    (m.write a b).read a = some b := by
  cases a <;> exact bufWrite_read_same _ _ _ h

/-- A write leaves every other address as it was, in both buffers. -/
theorem Memory.read_write_other (m : Memory) (a a' : Addr) (b : Byte) (h : a' ≠ a) :
    (m.write a b).read a' = m.read a' := by
  cases a <;> cases a' <;> simp only [Memory.read, Memory.write]
  all_goals exact bufWrite_read_other _ _ _ _ fun e => h (by rw [e])

/-- Memories that read alike at every address are equal: the form of the buffers is canonical. -/
theorem Memory.eq_of_read_eq (m m' : Memory) (h : ∀ a, m.read a = m'.read a) : m = m' := by
  cases m; cases m'
  simp only [Memory.mk.injEq]
  exact ⟨List.ext_getElem? fun i => h (.pay i), List.ext_getElem? fun i => h (.pkt i)⟩

/-- The write loop, begun at the end of PKT, appends its bytes. -/
theorem Memory.writePkt_eq (m : Memory) (bs : List Byte) :
    m.writePkt m.pkt.length bs = { m with pkt := m.pkt ++ bs } := by
  induction bs generalizing m with
  | nil => simp [Memory.writePkt]
  | cons b bs ih =>
    have h := ih { m with pkt := m.pkt ++ [b] }
    simp only [List.length_append, List.length_singleton, List.append_assoc, List.singleton_append] at h
    simpa [Memory.writePkt, Memory.write] using h

/-- PFBUILD's writes leave `PKT` holding the packet of R77. -/
theorem Memory.buildPkt_eq (m : Memory) (T : Byte) (I S : Half) :
    m.buildPkt T I S = { m with pkt := packetBytes m.pay T I S } := by
  have h := Memory.writePkt_eq { m with pkt := [] } (zeroedPacket m.pay T I S)
  simp only [List.length_nil, List.nil_append] at h
  simp only [Memory.buildPkt, h]
  simp [Memory.write, bufWrite, packetBytes, packetWith, zeroedPacket, be16]

@[simp] theorem packetWith_length (P : List Byte) (T : Byte) (C I S : Half) :
    (packetWith P T C I S).length = 8 + P.length := by
  simp [packetWith, be16]; omega

@[simp] theorem packetBytes_length (P : List Byte) (T : Byte) (I S : Half) :
    (packetBytes P T I S).length = 8 + P.length := by
  simp [packetBytes]

theorem Memory.wf_iff (m : Memory) :
    m.wf = true ↔ m.pay.length ≤ 32 ∧ (m.pkt.length = 0 ∨ 8 ≤ m.pkt.length ∧ m.pkt.length ≤ 40) := by
  simp only [Memory.wf, Bool.and_eq_true, Bool.or_eq_true, decide_eq_true_eq, beq_iff_eq]
  rfl

/-- The reset memory is in canonical form. -/
theorem Memory.wf_empty : Memory.empty.wf = true := by decide

/-- PFCLR's operation keeps the canonical form. -/
theorem Memory.wf_clearPay (m : Memory) (h : m.wf = true) : ({ m with pay := [] } : Memory).wf = true := by
  simp_all [Memory.wf_iff]

/-- PFPUSH's operation keeps the canonical form while there is room. -/
theorem Memory.wf_push (m : Memory) (b : Byte) (h : m.wf = true) (room : m.pay.length < 32) :
    (m.write (.pay m.pay.length) b).wf = true := by
  simp_all [Memory.wf_iff]

/-- A faulting PFBUILD's operation keeps the canonical form. -/
theorem Memory.wf_clearPkt (m : Memory) (h : m.wf = true) : ({ m with pkt := [] } : Memory).wf = true := by
  simp_all [Memory.wf_iff]

/-- PFBUILD's operation keeps the canonical form. -/
theorem Memory.wf_buildPkt (m : Memory) (T : Byte) (I S : Half) (h : m.wf = true) :
    (m.buildPkt T I S).wf = true := by
  simp_all [Memory.wf_iff, Memory.buildPkt_eq]; omega

/-! ### The response word -/

theorem Block.responseWord_clear (b : Block) (d : Half) (h : b.fault = false) :
    b.responseWord d = 0#16 ++ d := by
  simp [Block.responseWord, h]

theorem Block.responseWord_faulted (b : Block) (d : Half) (h : b.fault = true) :
    b.responseWord d = 0x80#8 ++ b.cause ++ d := by
  simp only [Block.responseWord, h, if_true]; rfl

/-- The field `F` of a response is `FAULT` after the command (R50). -/
@[simp] theorem respF_responseWord (b : Block) (d : Half) : respF (b.responseWord d) = b.fault := by
  cases h : b.fault <;> simp only [respF, Block.responseWord, h, if_true, if_false, Bool.false_eq_true,
    BitVec.getLsbD_append] <;> rfl

/-- Bits 30:24 of a response are zero (R50). -/
@[simp] theorem reserved_responseWord (b : Block) (d : Half) : (b.responseWord d).extractLsb' 24 7 = 0#7 := by
  ext i hi
  simp only [BitVec.getElem_extractLsb']
  cases h : b.fault <;> simp only [Block.responseWord, h, if_true, if_false, Bool.false_eq_true,
    BitVec.getLsbD_append]
  all_goals interval_cases i <;> simp

/-- The field `CAUSE` of a response is `CAUSE` after the command, 0 when not FAULTED (R50). -/
@[simp] theorem respCause_responseWord (b : Block) (d : Half) :
    respCause (b.responseWord d) = if b.fault then b.cause else 0#8 := by
  cases h : b.fault <;> simp only [respCause, Block.responseWord, h] <;> (ext i hi; simp; try grind)

/-- The field `DATA` of a response (R50). -/
@[simp] theorem respData_responseWord (b : Block) (d : Half) : respData (b.responseWord d) = d := by
  cases h : b.fault <;> simp only [respData, Block.responseWord, h] <;> (ext i hi; simp; try grind)

/-- The block and the `DATA` of an answer are read off the answered state. -/
theorem State.answered_inj (s : State) (b b' : Block) (d d' : Half) (h : s.answered b d = s.answered b' d') :
    b = b' ∧ d = d' := by
  have hb : b = b' := congrArg State.block h
  have hp := congrArg State.port h
  simp only [State.answered_port, Port.response.injEq] at hp
  exact ⟨hb, by simpa using congrArg respData hp⟩

/-- The response of a command that completes with `DATA = 0`. -/
theorem Block.responseWord_zero (b : Block) (h : b.fault = false) : b.responseWord 0#16 = 0x00000000#32 := by
  rw [Block.responseWord_clear _ _ h]; decide

/-- The response of fault entry, one word for each cause. -/
def Cause.faultWord : Cause → Word
  | .illegalCommand => 0x80010000#32
  | .badType => 0x80020000#32
  | .payloadOverflow => 0x80030000#32
  | .indexRange => 0x80040000#32

theorem Block.responseWord_raised (b : Block) (c : Cause) : (b.raised c).responseWord 0#16 = c.faultWord := by
  rw [Block.responseWord_faulted _ _ rfl, Block.raised_cause]
  cases c <;> decide

end Sys2Proof.Machine
end

