-- ==== Sys2Proof/Laws/Exec.lean ====
section
/-! SUPPORT. What a command can do, said once: every arm of `exec` answers, by `respond` on some block, and while FAULTED
every arm but RESET and RDSR refuses. The statements about single commands start from these. -/

namespace Sys2Proof.Machine

theorem respond_eq_next (s t : State) (b : Block) (d : Half) : respond s b d = .next t ↔ s.answered b d = t := by
  simp [respond]

theorem raise_eq (s : State) (b : Block) (c : Cause) : raise s b c = .next (s.answered (b.raised c) 0#16) := rfl

theorem refuse_eq (s : State) : refuse s = .next (s.answered s.block 0#16) := rfl

@[simp] theorem unlessFaulted_of_clear (s : State) (go : Result) (h : s.block.fault = false) :
    unlessFaulted s go = go := by
  simp [unlessFaulted, h]

@[simp] theorem unlessFaulted_of_faulted (s : State) (go : Result) (h : s.block.fault = true) :
    unlessFaulted s go = refuse s := by
  simp [unlessFaulted, h]

/-- Fault entry, whole: the two registers it writes and its response. -/
theorem raise_next (s : State) (b : Block) (c : Cause) :
    raise s b c =
      .next { s with block := { b with fault := true, cause := c.code }, port := .response c.faultWord } := by
  rw [raise_eq, State.answered, Block.responseWord_raised]; rfl

/-- Refusal, whole: only the port. -/
theorem refuse_next (s : State) (h : s.block.fault = true) :
    refuse s = .next { s with port := .response (0x80#8 ++ s.block.cause ++ 0#16) } := by
  rw [refuse_eq, State.answered, Block.responseWord_faulted _ _ h]

/-- A command that completes on a block that is not FAULTED. -/
theorem respond_next (s : State) (b : Block) (d : Half) (h : b.fault = false) :
    respond s b d = .next { s with block := b, port := .response (0#16 ++ d) } := by
  rw [respond, State.answered, Block.responseWord_clear _ _ h]

/-- The same with `DATA = 0`. -/
theorem respond_next_zero (s : State) (b : Block) (h : b.fault = false) :
    respond s b 0#16 = .next { s with block := b, port := .response 0x00000000#32 } := by
  rw [respond, State.answered, Block.responseWord_zero _ h]

/-- A register number at most 7 has a value. -/
theorem Block.sr_of_le (b : Block) (n : Half) (h : n.toNat ≤ 7) : ∃ v, b.sr n = some v := by
  unfold Block.sr
  generalize n.toNat = k at h
  interval_cases k <;> exact ⟨_, rfl⟩

/-- A register number above 7 has none. -/
theorem Block.sr_of_gt (b : Block) (n : Half) (h : 7 < n.toNat) : b.sr n = none := by
  unfold Block.sr
  split <;> first | rfl | omega

/-- An illegal command answers. -/
theorem illegalCommand_answers (s : State) : ∃ b d, illegalCommand s = .next (s.answered b d) := by
  unfold illegalCommand unlessFaulted
  split <;> exact ⟨_, _, rfl⟩

/-- Every command answers, in every state: one block, one `DATA`, nothing else of the machine. -/
theorem exec_answers (i : Instr) (s : State) : ∃ b d, exec i s = .next (s.answered b d) := by
  cases i <;> simp only [exec]
  case reset => exact ⟨_, _, rfl⟩
  case rdsr n =>
    unfold execRdsr
    split
    · exact ⟨_, _, rfl⟩
    · exact illegalCommand_answers s
  all_goals
    simp only [execCsclr, execCsbyte, execCsword, execCsget, execPftype, execPfid, execPfseq, execPfclr, execPfpush,
      execPfbuild, execPfrd, unlessFaulted]
    repeat' split
    all_goals exact ⟨_, _, rfl⟩

/-- Every command word answers. -/
theorem runCommand_answers (w : Word) (s : State) : ∃ b d, runCommand w s = .next (s.answered b d) := by
  unfold runCommand
  split
  · exact exec_answers _ s
  · exact illegalCommand_answers s

/-- While FAULTED every command but RESET and RDSR is refused. -/
theorem exec_of_faulted (i : Instr) (s : State) (h : s.block.fault = true) (hr : i ≠ .reset)
    (hn : ∀ n, i ≠ .rdsr n) : exec i s = refuse s := by
  cases i <;> simp only [exec]
  case reset => exact absurd rfl hr
  case rdsr n => exact absurd rfl (hn n)
  all_goals exact unlessFaulted_of_faulted _ _ h

theorem runCommand_of_command (w : Word) (s : State) (i : Instr) (h : decode w = .command i) :
    runCommand w s = exec i s := by
  simp [runCommand, h]

theorem runCommand_of_illegal (w : Word) (s : State) (why : Illegal) (h : decode w = .illegal why) :
    runCommand w s = illegalCommand s := by
  simp [runCommand, h]

/-! ### The step -/

theorem step_of_hwReset (s : State) (h : s.hwReset = true) : step s = .next (hardwareReset s) := by
  simp [step, h]

theorem step_of_command (s : State) (w : Word) (h : s.hwReset = false) (hp : s.port = .command w) :
    step s = runCommand w s := by
  simp [step, h, hp]

theorem step_of_response (s : State) (r : Word) (h : s.hwReset = false) (hp : s.port = .response r) :
    step s = .next (hostReceive r s) := by
  simp [step, h, hp]

theorem step_of_idle (s : State) (h : s.hwReset = false) (hp : s.port = .idle) : step s = hostIssue s := by
  simp [step, h, hp]

/-- Placing a word puts exactly it on the port. -/
theorem withFetchWord_of_word (s : State) (w : Word) :
    s.withFetchWord 32 w.toNat = { s with port := .command w, hwReset := false } := by
  rw [State.withFetchWord, Nat.mod_eq_of_lt w.isLt, BitVec.ofNat_toNat, BitVec.setWidth_eq]

end Sys2Proof.Machine
end

