-- ==== Sys2Proof/Laws/Driver.lean ====
section
/-! SUPPORT. Runs of several steps, and the host's moves said once: to issue a command word and have its response takes
three steps (the host issues, the block answers, the host takes the response). -/

namespace Sys2Proof.Machine

/-- One step of a run, for any machine. -/
theorem coreRun_succ (M : Host.Core) (k : Nat) (s : M.State) :
    M.run (k + 1) s =
      match M.step s with
      | .next t => M.run k t
      | .fault r => .fault r
      | .refused r => .refused r := rfl

@[simp] theorem run_zero (s : State) : run 0 s = .next s := rfl

theorem run_succ_of_next (k : Nat) (s t : State) (h : step s = .next t) : run (k + 1) s = run k t := by
  have e := coreRun_succ Sys2Proof.core k s
  rw [show Sys2Proof.core.step s = .next t from h] at e
  exact e

/-- A run of one step more that ends in a state begins with a step. -/
theorem step_of_run_succ (k : Nat) (s t : State) (h : run (k + 1) s = .next t) :
    ∃ u, step s = .next u ∧ run k u = .next t := by
  cases e : step s with
  | next u => exact ⟨u, rfl, (run_succ_of_next k s u e).symm.trans h⟩
  | fault r =>
    have e' := coreRun_succ Sys2Proof.core k s
    rw [show Sys2Proof.core.step s = .fault r from e] at e'
    exact nomatch (e'.symm.trans h : Host.Outcome.fault r = .next t)
  | refused r =>
    have e' := coreRun_succ Sys2Proof.core k s
    rw [show Sys2Proof.core.step s = .refused r from e] at e'
    exact nomatch (e'.symm.trans h : Host.Outcome.refused r = .next t)

theorem run_one (s t : State) (h : step s = .next t) : run 1 s = .next t := run_succ_of_next 0 s t h

/-- Runs compose. -/
theorem run_trans {m n : Nat} {s t : State} {r : Result} (h : run m s = .next t) (h' : run n t = r) :
    run (m + n) s = r := by
  induction m generalizing s with
  | zero => cases h; simpa using h'
  | succ m ih =>
    obtain ⟨u, hu, h⟩ := step_of_run_succ m s t h
    rw [show m + 1 + n = (m + n) + 1 by omega, run_succ_of_next _ _ _ hu]
    exact ih h

/-- A state that a step leaves as it is stays so. -/
theorem run_of_fixed (s : State) (h : step s = .next s) (k : Nat) : run k s = .next s := by
  induction k with
  | zero => rfl
  | succ k ih => rw [run_succ_of_next k s s h, ih]

/-! ### What the host's moves can do to the block: nothing -/

@[simp] theorem hostReceive_block (r : Word) (s : State) : (hostReceive r s).block = s.block := rfl

@[simp] theorem transmit_block (s : State) (ok : Driver → Driver) : (transmit s ok).block = s.block := by
  unfold transmit
  dsimp only
  split <;> rfl

theorem driverMove_block (s t : State) (h : driverMove s = .next t) : t.block = s.block := by
  unfold driverMove at h
  dsimp only at h
  split at h
  any_goals (cases h; first | rfl | exact transmit_block _ _)
  split at h
  · cases h; rfl
  · split at h <;> cases h; rfl

theorem hostIssue_block (s t : State) (h : hostIssue s = .next t) : t.block = s.block := by
  unfold hostIssue at h
  dsimp only at h
  split at h
  any_goals (cases h; rfl)
  exact driverMove_block s t h

/-- Taking a response, except one that ends a running transfer. -/
theorem hostReceive_eq (r : Word) (s : State) (h : s.host.driver.phase.active = false ∨ respF r = false) :
    hostReceive r s = { s with
      port := .idle
      host := { s.host with
        keep := false
        last := r
        bytes := if s.host.keep then s.host.bytes ++ [lo8 (respData r)] else s.host.bytes
        observed := s.host.observed ++ [r] } } := by
  have hc : (s.host.driver.phase.active && respF r) = false := by
    rcases h with h | h <;> rw [h] <;> simp
  unfold hostReceive
  simp only [hc]
  rfl

/-- Issuing a command word, its answer, and taking the response. -/
theorem run_send (s : State) (w : Word) (rest : List HostOp) (b : Block) (d : Half) (hr : s.hwReset = false)
    (hp : s.port = .idle) (hs : s.host.script = .send w :: rest)
    (ha : ∀ t : State, t.block = s.block → runCommand w t = .next (t.answered b d))
    (hd : s.host.driver.phase.active = false ∨ b.fault = false) :
    run 3 s = .next { s with
      block := b
      host := { s.host with
        script := rest, keep := false, last := b.responseWord d
        observed := s.host.observed ++ [b.responseWord d] } } := by
  have h1 : step s = .next { s with port := .command w, host := { s.host with script := rest, keep := false } } := by
    rw [step_of_idle _ hr hp]; simp [hostIssue, hs]
  have h2 : step { s with port := .command w, host := { s.host with script := rest, keep := false } } =
      .next { s with block := b, port := .response (b.responseWord d),
                     host := { s.host with script := rest, keep := false } } := by
    rw [step_of_command _ _ (by exact hr) rfl]; exact ha _ rfl
  refine run_trans (m := 1) (run_one _ _ h1) (run_trans (m := 1) (run_one _ _ h2) (run_one _ _ ?_))
  rw [step_of_response _ (b.responseWord d) (by exact hr) rfl, hostReceive_eq]
  · simp [hp]
  · simpa using hd

/-- The same for `PFRD i`, whose byte the host keeps. -/
theorem run_fetch (s : State) (i : Half) (rest : List HostOp) (b : Block) (d : Half) (hr : s.hwReset = false)
    (hp : s.port = .idle) (hs : s.host.script = .fetch i :: rest)
    (ha : ∀ t : State, t.block = s.block → runCommand (encode (.pfrd i)) t = .next (t.answered b d))
    (hd : s.host.driver.phase.active = false ∨ b.fault = false) :
    run 3 s = .next { s with
      block := b
      host := { s.host with
        script := rest, keep := false, last := b.responseWord d
        bytes := s.host.bytes ++ [lo8 d]
        observed := s.host.observed ++ [b.responseWord d] } } := by
  have h1 : step s = .next { s with
      port := .command (encode (.pfrd i)), host := { s.host with script := rest, keep := true } } := by
    rw [step_of_idle _ hr hp]; simp [hostIssue, hs]
  have h2 : step { s with port := .command (encode (.pfrd i)), host := { s.host with script := rest, keep := true } } =
      .next { s with block := b, port := .response (b.responseWord d),
                     host := { s.host with script := rest, keep := true } } := by
    rw [step_of_command _ _ (by exact hr) rfl]; exact ha _ rfl
  refine run_trans (m := 1) (run_one _ _ h1) (run_trans (m := 1) (run_one _ _ h2) (run_one _ _ ?_))
  rw [step_of_response _ (b.responseWord d) (by exact hr) rfl, hostReceive_eq]
  · simp [hp]
  · simpa using hd

/-- Beginning to read out. -/
theorem run_readOut (s : State) (rest : List HostOp) (hr : s.hwReset = false) (hp : s.port = .idle)
    (hs : s.host.script = .readOut :: rest) :
    run 1 s = .next { s with
      host := { s.host with script := fetches (respData s.host.last).toNat ++ rest, bytes := [] } } := by
  refine run_one _ _ ?_
  rw [step_of_idle _ hr hp]; simp [hostIssue, hs]

end Sys2Proof.Machine
end

