-- ==== Sys2Proof/Laws/PerInstr.lean ====
section
/-! SUPPORT. A statement about every command as syntax, one lemma per constructor: its word is the match value of its row
in the opcode table of 30_encoding.md R48 with the operand in the low bits, and the operand is legal for the row's form. -/

namespace Sys2Proof.Laws

open Sys2Proof.Machine

/-- A command word is the word of its opcode with the operand put into bits 15:0. -/
theorem commandWord_eq_or (op : Byte) (arg : Half) : commandWord op arg = commandWord op 0#16 ||| arg.setWidth 32 := by
  ext i hi; simp [commandWord]; grind

/-- The command's row (R48): its opcode, its match value, its form. -/
def TableRow.Statement (i : Instr) : Prop :=
  i.WellFormed = true →
    ∃ row ∈ opcodeRows, row.op = i.opcode ∧ row.form.legal i.arg = true ∧ encode i = row.pattern ||| i.arg.setWidth 32

/-- The match value of a row whose opcode and form are known. -/
theorem tableRow_of {i : Instr} (form : ArgForm) (pattern mask : Word)
    (hrow : ⟨i.opcode, form, pattern, mask⟩ ∈ opcodeRows) (hp : commandWord i.opcode 0#16 = pattern)
    (hl : i.WellFormed = true → form.legal i.arg = true) : TableRow.Statement i :=
  fun hw => ⟨_, hrow, rfl, hl hw, hp ▸ commandWord_eq_or i.opcode i.arg⟩

theorem TableRow.reset : TableRow.Statement .reset :=
  tableRow_of .none 0x01000000#32 0xFFFFFFFF#32 (by decide) (by decide) fun _ => rfl

theorem TableRow.rdsr (n : Half) : TableRow.Statement (.rdsr n) :=
  tableRow_of .register 0x02000000#32 0xFFFFFFF8#32 (by simp [opcodeRows, Instr.opcode]) (by simp only [Instr.opcode]; decide) id

theorem TableRow.csclr : TableRow.Statement .csclr :=
  tableRow_of .none 0x10000000#32 0xFFFFFFFF#32 (by decide) (by decide) fun _ => rfl

theorem TableRow.csbyte (b : Byte) : TableRow.Statement (.csbyte b) :=
  tableRow_of .byte 0x11000000#32 0xFFFFFF00#32 (by simp [opcodeRows, Instr.opcode]) (by simp only [Instr.opcode]; decide)
    fun _ => by simp [ArgForm.legal, Instr.arg]

theorem TableRow.csword (w : Half) : TableRow.Statement (.csword w) :=
  tableRow_of .word 0x12000000#32 0xFFFF0000#32 (by simp [opcodeRows, Instr.opcode]) (by simp only [Instr.opcode]; decide)
    fun _ => rfl

theorem TableRow.csget : TableRow.Statement .csget :=
  tableRow_of .none 0x13000000#32 0xFFFFFFFF#32 (by decide) (by decide) fun _ => rfl

theorem TableRow.pftype (b : Byte) : TableRow.Statement (.pftype b) :=
  tableRow_of .byte 0x20000000#32 0xFFFFFF00#32 (by simp [opcodeRows, Instr.opcode]) (by simp only [Instr.opcode]; decide)
    fun _ => by simp [ArgForm.legal, Instr.arg]

theorem TableRow.pfid (w : Half) : TableRow.Statement (.pfid w) :=
  tableRow_of .word 0x21000000#32 0xFFFF0000#32 (by simp [opcodeRows, Instr.opcode]) (by simp only [Instr.opcode]; decide)
    fun _ => rfl

theorem TableRow.pfseq (w : Half) : TableRow.Statement (.pfseq w) :=
  tableRow_of .word 0x22000000#32 0xFFFF0000#32 (by simp [opcodeRows, Instr.opcode]) (by simp only [Instr.opcode]; decide)
    fun _ => rfl

theorem TableRow.pfclr : TableRow.Statement .pfclr :=
  tableRow_of .none 0x23000000#32 0xFFFFFFFF#32 (by decide) (by decide) fun _ => rfl

theorem TableRow.pfpush (b : Byte) : TableRow.Statement (.pfpush b) :=
  tableRow_of .byte 0x24000000#32 0xFFFFFF00#32 (by simp [opcodeRows, Instr.opcode]) (by simp only [Instr.opcode]; decide)
    fun _ => by simp [ArgForm.legal, Instr.arg]

theorem TableRow.pfbuild : TableRow.Statement .pfbuild :=
  tableRow_of .none 0x25000000#32 0xFFFFFFFF#32 (by decide) (by decide) fun _ => rfl

theorem TableRow.pfrd (i : Half) : TableRow.Statement (.pfrd i) :=
  tableRow_of .index 0x26000000#32 0xFFFF0000#32 (by simp [opcodeRows, Instr.opcode]) (by simp only [Instr.opcode]; decide)
    fun _ => rfl

end Sys2Proof.Laws
end

