-- ==== Sys2Proof/Tests/Slice0.lean ====
section
/-! SUPPORT. The model's own tests. Expected values are those of spec/95_test_vectors.md (named in each comment) or are
written out from the encodings of 30_encoding.md R48 and R52; then one witness for every statement with hypotheses. -/

namespace Sys2Proof.Tests

open Sys2Proof Sys2Proof.Machine

/-! ### Helpers -/

/-- The reset machine with another block. -/
def withBlock (b : Block) : State := { State.reset with block := b }

/-- The response after a step. -/
def responseOf : Result → Option Word
  | .next t => match t.port with
    | .response r => some r
    | .command _ | .idle => none
  | .fault _ | .refused _ => none

/-- The block after a step. -/
def blockOf : Result → Option Block
  | .next t => some t.block
  | .fault _ | .refused _ => none

/-- One step of the machine on a command word placed in the state. -/
def stepOn (w : Word) (s : State) : Result := step (s.withFetchWord 32 w.toNat)

/-- A FAULTED block whose cause is 1 and whose `IDENT` is 0x04A8 (the block of V-FLT-1 after line 2). -/
def faultedBlock : Block := { Block.reset with fault := true, cause := 1#8, ident := 0x04A8#16 }

/-- 32 payload bytes. -/
def fullPayload : List Byte := List.replicate 32 0x41#8

/-- The packet of V-PF-6: Echo, identifier 0x1234, sequence 1, payload `61`. -/
def packetA : List Byte := [0x08#8, 0x00#8, 0x84#8, 0xCA#8, 0x12#8, 0x34#8, 0x00#8, 0x01#8, 0x61#8]

/-- The block before PFBUILD of V-PFC-1 (line 5), with an odd number of bytes absorbed. -/
def beforeBuild : Block :=
  { Block.reset with ptype := 0x08#8, ident := 0x1234#16, seq := 1#16, half := true, hold := 0x56#8, acc := 0x1234#16,
                     mem := { pay := [0x61#8], pkt := [] } }

/-- The same block after it. -/
def afterBuild : Block := { beforeBuild with mem := { pay := [0x61#8], pkt := packetA } }

/-! ### Well-formedness -/

/-- The one ill-formed shape: a reserved register number (R47 form S). -/
theorem test_wf_refuses_reserved_register :
    (Instr.rdsr 8#16).WellFormed = false ∧ (Instr.rdsr 0xFFFF#16).WellFormed = false ∧
    (Instr.rdsr 7#16).WellFormed = true := by decide

/-! ### Decoding: V-DEC-1, and one word of each command written out from R48 -/

theorem test_decode_block_commands :
    decode 0x01000000#32 = .command .reset ∧ decode 0x02000000#32 = .command (.rdsr 0#16) ∧
    decode 0x02000007#32 = .command (.rdsr 7#16) := by decide

theorem test_decode_engine_commands :
    decode 0x10000000#32 = .command .csclr ∧ decode 0x110000FF#32 = .command (.csbyte 0xFF#8) ∧
    decode 0x1200FFFF#32 = .command (.csword 0xFFFF#16) ∧ decode 0x12001234#32 = .command (.csword 0x1234#16) ∧
    decode 0x13000000#32 = .command .csget := by decide

theorem test_decode_framer_commands :
    decode 0x20000003#32 = .command (.pftype 3#8) ∧ decode 0x210004A8#32 = .command (.pfid 1192#16) ∧
    decode 0x2200FFFF#32 = .command (.pfseq 0xFFFF#16) ∧ decode 0x23000000#32 = .command .pfclr ∧
    decode 0x240000AA#32 = .command (.pfpush 0xAA#8) ∧ decode 0x25000000#32 = .command .pfbuild ∧
    decode 0x26000000#32 = .command (.pfrd 0#16) ∧ decode 0x2600FFFF#32 = .command (.pfrd 0xFFFF#16) := by decide

theorem test_decode_reserved_op :
    decode 0x00000000#32 = .illegal .reservedOp ∧ decode 0x03000000#32 = .illegal .reservedOp ∧
    decode 0x14000000#32 = .illegal .reservedOp ∧ decode 0x27000000#32 = .illegal .reservedOp ∧
    decode 0x80000000#32 = .illegal .reservedOp := by decide

theorem test_decode_mbz :
    decode 0xFFFFFFFF#32 = .illegal .mbzNotZero ∧ decode 0x01010000#32 = .illegal .mbzNotZero ∧
    decode 0x1201FFFF#32 = .illegal .mbzNotZero ∧ decode 0x10800000#32 = .illegal .mbzNotZero := by decide

theorem test_decode_bad_argument :
    decode 0x01000001#32 = .illegal .argNotZero ∧ decode 0x13000001#32 = .illegal .argNotZero ∧
    decode 0x25000001#32 = .illegal .argNotZero ∧ decode 0x11000100#32 = .illegal .argHighNotZero ∧
    decode 0x20000103#32 = .illegal .argHighNotZero ∧ decode 0x02000008#32 = .illegal .reservedRegister ∧
    decode 0x0200FFFF#32 = .illegal .reservedRegister := by decide

/-- Words of R61: `CSBYTE 0x08`, `PFID 1192`, `PFBUILD`, `RDSR 7`. -/
theorem test_encode_words :
    encode (.csbyte 0x08#8) = 0x11000008#32 ∧ encode (.pfid 1192#16) = 0x210004A8#32 ∧
    encode .pfbuild = 0x25000000#32 ∧ encode (.rdsr 7#16) = 0x02000007#32 := by decide

theorem test_decodeTableWord :
    decodeTableWord 32 0x110000FF = some (.csbyte 0xFF#8) ∧ decodeTableWord 32 0x02000008 = none ∧
    decodeTableWord 32 0 = none ∧ decodeTableWord 8 0x26000001 = none := by decide

/-! ### The functions: 95_test_vectors.md sections 2 and 4 -/

/-- V-CE-1, V-CE-4, V-CE-5, V-CE-13 (two fold passes), V-CE-18, V-CE-20, V-CE-21. -/
theorem test_computeChecksum :
    computeChecksum [] = 0xFFFF#16 ∧ computeChecksum [0xFF#8] = 0x00FF#16 ∧
    computeChecksum [0xFF#8, 0xFF#8] = 0x0000#16 ∧
    computeChecksum [0xFF#8, 0xFF#8, 0xFF#8, 0xFF#8, 0x00#8, 0x01#8] = 0xFFFE#16 ∧
    computeChecksum [0x08#8, 0x00#8, 0x00#8, 0x00#8, 0x04#8, 0xA8#8, 0x00#8, 0x01#8, 0x61#8, 0x62#8, 0x63#8, 0x64#8]
      = 0x2E90#16 ∧
    computeChecksum [0x00#8, 0x01#8, 0xF2#8, 0x03#8, 0xF4#8, 0xF5#8, 0xF6#8, 0xF7#8] = 0x220D#16 ∧
    computeChecksum [0x34#8, 0x12#8] = 0xCBED#16 := by decide

/-- The pairs of section 2's second table. -/
theorem test_onesAdd16 :
    onesAdd16 0#16 0#16 = 0#16 ∧ onesAdd16 0#16 0xFFFF#16 = 0xFFFF#16 ∧ onesAdd16 1#16 0xFFFF#16 = 1#16 := by decide

/-- V-PF-1, V-PF-6, V-PF-9 (two fold passes), V-PF-10, V-PF-15, and a type outside the domain. -/
theorem test_buildPacket :
    buildPacket [] 0#8 0#16 0#16 = some [0x00#8, 0x00#8, 0xFF#8, 0xFF#8, 0x00#8, 0x00#8, 0x00#8, 0x00#8] ∧
    buildPacket [0x61#8] 0x08#8 0x1234#16 1#16 = some packetA ∧
    buildPacket [0x00#8, 0x02#8] 0x00#8 0xFFFF#16 0xFFFE#16 =
      some [0x00#8, 0x00#8, 0xFF#8, 0xFE#8, 0xFF#8, 0xFF#8, 0xFF#8, 0xFE#8, 0x00#8, 0x02#8] ∧
    buildPacket [] 0x00#8 0x04A8#16 0xFFFF#16 =
      some [0x00#8, 0x00#8, 0xFB#8, 0x57#8, 0x04#8, 0xA8#8, 0xFF#8, 0xFF#8] ∧
    buildPacket [] 0x00#8 0#16 0xFFFF#16 = some [0x00#8, 0x00#8, 0x00#8, 0x00#8, 0x00#8, 0x00#8, 0xFF#8, 0xFF#8] ∧
    buildPacket [] 0x03#8 0#16 0#16 = none := by decide

/-! ### One step of each command -/

/-- V-FLT-1 line 10: the exit from FAULTED. -/
theorem test_reset_clears_fault :
    responseOf (stepOn 0x01000000#32 (withBlock faultedBlock)) = some 0x00000000#32 ∧
    blockOf (stepOn 0x01000000#32 (withBlock faultedBlock)) = some Block.reset := by decide

/-- V-SYS-1 line 11: STATUS with `HALF` set. -/
theorem test_rdsr_status : responseOf (stepOn 0x02000000#32 (withBlock afterBuild)) = some 0x00000002#32 := by decide

/-- V-FLT-1 line 8: RDSR works while FAULTED. -/
theorem test_rdsr_faulted : responseOf (stepOn 0x02000004#32 (withBlock faultedBlock)) = some 0x800104A8#32 := by decide

/-- R67's example, and its frame: the framer is untouched. -/
theorem test_csclr :
    blockOf (stepOn 0x10000000#32 (withBlock afterBuild)) =
      some { afterBuild with acc := 0#16, half := false, hold := 0#8 } := by decide

/-- V-CEC-5 line 1, a byte at even phase. -/
theorem test_csbyte_even :
    (blockOf (stepOn 0x11000001#32 State.reset)).map (fun b => (b.acc, b.half, b.hold)) = some (0#16, true, 1#8) := by
  decide

/-- V-CEC-5 line 3, a byte at odd phase completes a word. -/
theorem test_csbyte_odd :
    (blockOf (stepOn 0x11000002#32 (withBlock { Block.reset with half := true, hold := 1#8 }))).map
      (fun b => (b.acc, b.half, b.hold)) = some (0x0102#16, false, 0#8) := by decide

/-- V-CEC-3 line 3, a word at odd phase. -/
theorem test_csword_odd :
    (blockOf (stepOn 0x12003456#32 (withBlock { Block.reset with half := true, hold := 0x12#8 }))).map
      (fun b => (b.acc, b.half, b.hold)) = some (0x1234#16, true, 0x56#8) := by decide

/-- V-CEC-4 line 4, the end-around carry. -/
theorem test_csword_carry :
    (blockOf (stepOn 0x12000001#32 (withBlock { Block.reset with acc := 0xFFFF#16 }))).map (fun b => b.acc) =
      some 1#16 := by decide

/-- V-CEC-3 line 4: the pad byte is not stored. -/
theorem test_csget_odd :
    responseOf (stepOn 0x13000000#32 (withBlock afterBuild)) = some 0x000097CB#32 ∧
    blockOf (stepOn 0x13000000#32 (withBlock afterBuild)) = some afterBuild := by decide

/-- V-DEC-1: CSGET on the clear engine. -/
theorem test_csget_clear : responseOf (stepOn 0x13000000#32 State.reset) = some 0x0000FFFF#32 := by decide

/-- V-DEC-1: an unsupported type is stored. -/
theorem test_pftype :
    blockOf (stepOn 0x20000003#32 State.reset) = some { Block.reset with ptype := 3#8 } := by decide

theorem test_pfid : blockOf (stepOn 0x210004A8#32 State.reset) = some { Block.reset with ident := 0x04A8#16 } := by
  decide

theorem test_pfseq : blockOf (stepOn 0x2200FFFF#32 State.reset) = some { Block.reset with seq := 0xFFFF#16 } := by
  decide

/-- V-PFC-3 line 5: the packet stays. -/
theorem test_pfclr :
    blockOf (stepOn 0x23000000#32 (withBlock afterBuild)) =
      some { afterBuild with mem := { pay := [], pkt := packetA } } := by decide

/-- R85's example, the second push. -/
theorem test_pfpush :
    (blockOf (stepOn 0x24000065#32 (withBlock { Block.reset with mem := { pay := [0x68#8], pkt := [] } }))).map
      (fun b => b.mem.pay) = some [0x68#8, 0x65#8] := by decide

/-- V-FLT-3 line 1. -/
theorem test_pfpush_overflow :
    responseOf (stepOn 0x24000020#32 (withBlock { Block.reset with mem := { pay := fullPayload, pkt := [] } })) =
      some 0x80030000#32 := by decide

/-- V-PFC-1 line 6, with the engine's registers standing as in V-CEC-7. -/
theorem test_pfbuild :
    responseOf (stepOn 0x25000000#32 (withBlock beforeBuild)) = some 0x00000009#32 ∧
    blockOf (stepOn 0x25000000#32 (withBlock beforeBuild)) = some afterBuild := by decide

/-- V-FLT-2 line 4: the old packet is gone, the payload is not. -/
theorem test_pfbuild_bad_type :
    responseOf (stepOn 0x25000000#32 (withBlock { afterBuild with ptype := 3#8 })) = some 0x80020000#32 ∧
    (blockOf (stepOn 0x25000000#32 (withBlock { afterBuild with ptype := 3#8 }))).map (fun b => b.mem) =
      some { pay := [0x61#8], pkt := [] } := by decide

/-- V-PFC-1 lines 9 and 10. -/
theorem test_pfrd :
    responseOf (stepOn 0x26000003#32 (withBlock afterBuild)) = some 0x000000CA#32 ∧
    responseOf (stepOn 0x26000008#32 (withBlock afterBuild)) = some 0x00000061#32 := by decide

/-- V-FLT-4 line 3, with this packet's length: the first offset beyond. -/
theorem test_pfrd_range : responseOf (stepOn 0x26000009#32 (withBlock afterBuild)) = some 0x80040000#32 := by decide

/-- V-FLT-1 lines 2, 5 and 9: an illegal word, an illegal word while FAULTED, a refused command. -/
theorem test_illegal_and_refused :
    responseOf (stepOn 0x00000000#32 State.reset) = some 0x80010000#32 ∧
    responseOf (stepOn 0xFFFFFFFF#32 (withBlock { faultedBlock with cause := 2#8 })) = some 0x80020000#32 ∧
    responseOf (stepOn 0x13000000#32 (withBlock faultedBlock)) = some 0x80010000#32 := by decide

/-! ### The host -/

/-- V-TD-2 and V-TD-4's packet counts, and the stream of V-TD-2. -/
theorem test_stream :
    streamOf 0x04A8#16 [0x68#8, 0x65#8, 0x6C#8, 0x6C#8, 0x6F#8] =
      [[0x00#8, 0x00#8, 0xB7#8, 0x85#8, 0x04#8, 0xA8#8, 0x00#8, 0x00#8, 0x68#8, 0x65#8, 0x6C#8, 0x6C#8, 0x6F#8],
       [0x00#8, 0x00#8, 0xFB#8, 0x57#8, 0x04#8, 0xA8#8, 0xFF#8, 0xFF#8]] ∧
    (streamOf 0x04A8#16 (List.replicate 33 0#8)).length = 3 ∧
    (streamOf 0x04A8#16 (List.replicate 32 0#8)).length = 2 ∧ (streamOf 0x04A8#16 []).length = 1 := by decide

/-- The host issues the head of its script. -/
theorem test_host_issues :
    (match step (State.reset.withScript [.send 0x13000000#32]) with
     | .next t => some (t.port, t.host.script)
     | .fault _ | .refused _ => none) = some (.command 0x13000000#32, []) := by decide

/-- R61's examples, its comment, and an operand that does not fit. -/
theorem test_assembler :
    assembleLine "CSBYTE 0x08".toList = .ok [.send 0x11000008#32] ∧
    assembleLine "PFID 1192 ; identifier".toList = .ok [.send 0x210004A8#32] ∧
    assembleLine "RDSR 8".toList = .error .operandTooLarge ∧
    assembleLine ".word 0xFFFFFFFF".toList = .ok [.send 0xFFFFFFFF#32] ∧
    assembleLine "".toList = .ok [] := by decide

/-- R62's second and third rows. -/
theorem test_assembler_pseudo :
    assembleLine "PFLOAD 0x68 0x65".toList = .ok [.send 0x23000000#32, .send 0x24000068#32, .send 0x24000065#32] ∧
    assembleLine "BUILDPACKET 8, 0x1234, 1, 0x61".toList =
      .ok [.send 0x20000008#32, .send 0x21001234#32, .send 0x22000001#32, .send 0x23000000#32, .send 0x24000061#32,
           .send 0x25000000#32] := by decide

/-! ### Witnesses: states and operands that meet all hypotheses of a statement, clause by clause, at boundary values -/

/-- A block at the bounds of both buffers. -/
def fullBlock : Block :=
  { Block.reset with ptype := 0x08#8, mem := { pay := fullPayload, pkt := packetBytes fullPayload 0x08#8 0#16 0#16 } }

/-- One byte of payload missing. -/
def almostFull : Block := { Block.reset with mem := { pay := List.replicate 31 0x41#8, pkt := [] } }

/-- An odd number of bytes absorbed: `12 34 56`. -/
theorem holds_afterBuild : EngineHolds [0x12#8, 0x34#8, 0x56#8] afterBuild :=
  ⟨by decide, by decide, by decide⟩

theorem holds_reset : EngineHolds [] Block.reset := ⟨by decide, by decide, by decide⟩

theorem witness_DecodeOfEncodeIsTheCommand :
    (Instr.rdsr 7#16).WellFormed = true ∧ (Instr.pfrd 0xFFFF#16).WellFormed = true := by decide

theorem witness_EncodeOfDecodeIsTheWord : decode 0x02000007#32 = .command (.rdsr 7#16) := by decide

theorem witness_CommandsMatchTheirTableRow :
    ∃ row ∈ opcodeRows, row.op = 0x02#8 ∧ 0x02000007#32 &&& row.mask = row.pattern ∧
      0x02000008#32 &&& row.mask ≠ row.pattern := by decide

theorem witness_IllegalWordsAreThoseListed :
    decode 0x02000008#32 = .illegal .reservedRegister ∧ State.reset.block.fault = false ∧
    (withBlock faultedBlock).block.fault = true := by decide

theorem witness_StepRunsTheDecodedCommand :
    (State.reset.withFetchWord 32 0x13000000).hwReset = false ∧
    (State.reset.withFetchWord 32 0x13000000).port = .command 0x13000000#32 ∧
    decode 0x13000000#32 = .command .csget ∧ (Instr.rdsr 7#16).WellFormed = true := by decide

theorem witness_TopLevelStepOrder_faulted :
    ((withBlock faultedBlock).withFetchWord 32 0x13000000).hwReset = false ∧
    ((withBlock faultedBlock).withFetchWord 32 0x13000000).port = .command 0x13000000#32 ∧
    (withBlock faultedBlock).block.fault = true ∧ decode 0x01000000#32 = .command .reset ∧
    decode 0x02000007#32 = .command (.rdsr 7#16) ∧ decode 0x13000000#32 = .command .csget ∧
    decode 0x02000008#32 = .illegal .reservedRegister := by decide

theorem witness_TopLevelStepOrder_clear :
    (State.reset.withFetchWord 32 0x02000008).port = .command 0x02000008#32 ∧ State.reset.block.fault = false ∧
    decode 0x02000008#32 = .illegal .reservedRegister ∧ decode 0x02000007#32 = .command (.rdsr 7#16) := by decide

theorem witness_FaultedBlockIsAbsorbing :
    (withBlock faultedBlock).block.fault = true ∧
    (∀ w ∈ [0x02000007#32, 0x13000000#32, 0xFFFFFFFF#32], decode w ≠ .command .reset) :=
  ⟨rfl, by intro w hw; fin_cases hw <;> decide⟩

theorem witness_FaultedBlockIsAbsorbing_refusals :
    ∀ w ∈ [0x13000000#32, 0x02000008#32], decode w ≠ .command .reset ∧ ∀ n, decode w ≠ .command (.rdsr n) := by
  intro w hw
  fin_cases hw
  · rw [show decode 0x13000000#32 = .command .csget by decide]; simp
  · rw [show decode 0x02000008#32 = .illegal .reservedRegister by decide]; simp

theorem witness_FaultSetByEntryClearedByReset_clear :
    (withBlock faultedBlock).block.fault = true ∧
    ∃ t, exec .reset (withBlock faultedBlock) = .next t ∧ t.block.fault = false := ⟨rfl, _, rfl, rfl⟩

/-- A step clears `FAULT`: by the word of RESET, and by a reset event. -/
theorem witness_FaultSetByEntryClearedByReset_step_clear :
    (withBlock faultedBlock).block.fault = true ∧
    (∃ t, stepOn 0x01000000#32 (withBlock faultedBlock) = .next t ∧ t.block.fault = false) ∧
    ∃ t, step { withBlock faultedBlock with hwReset := true } = .next t ∧ t.block.fault = false :=
  ⟨rfl, ⟨_, rfl, rfl⟩, _, rfl, rfl⟩

/-- A step sets `FAULT`, once for each cause: an illegal word, type 9, the 33rd byte, offset 9 of a 9-byte packet. -/
theorem witness_FaultSetByEntryClearedByReset_step_causes :
    (∃ t, stepOn 0x02000008#32 State.reset = .next t ∧ t.block.fault = true ∧ t.block.cause = 1#8) ∧
    (∃ t, stepOn 0x25000000#32 (withBlock { Block.reset with ptype := 9#8 }) = .next t ∧ t.block.fault = true ∧
      t.block.cause = 2#8) ∧
    (∃ t, stepOn 0x24000000#32 (withBlock fullBlock) = .next t ∧ t.block.fault = true ∧ t.block.cause = 3#8) ∧
    (∃ t, stepOn 0x26000009#32 (withBlock afterBuild) = .next t ∧ t.block.fault = true ∧ t.block.cause = 4#8) :=
  ⟨⟨_, rfl, rfl, rfl⟩, ⟨_, rfl, rfl, rfl⟩, ⟨_, rfl, rfl, rfl⟩, ⟨_, rfl, rfl, rfl⟩⟩

theorem witness_FaultSetByEntryClearedByReset_causes :
    (∃ t, exec (.rdsr 8#16) State.reset = .next t ∧ t.block.fault = true ∧ t.block.cause = 1#8) ∧
    (∃ t, exec .pfbuild (withBlock { Block.reset with ptype := 9#8 }) = .next t ∧ t.block.fault = true ∧
      t.block.cause = 2#8) ∧
    (∃ t, exec (.pfpush 0#8) (withBlock fullBlock) = .next t ∧ t.block.fault = true ∧ t.block.cause = 3#8) ∧
    (∃ t, exec (.pfrd 9#16) (withBlock afterBuild) = .next t ∧ t.block.fault = true ∧ t.block.cause = 4#8) :=
  ⟨⟨_, rfl, rfl, rfl⟩, ⟨_, rfl, rfl, rfl⟩, ⟨_, rfl, rfl, rfl⟩, ⟨_, rfl, rfl, rfl⟩⟩

theorem witness_EveryCommandIsAnswered :
    (State.reset.block.fault = false ∧
      ∃ t, runCommand 0x02000008#32 State.reset = .next t ∧ t.block.fault = true) ∧
    (withBlock faultedBlock).block.fault = true ∧ decode 0x13000000#32 = .command .csget :=
  ⟨⟨rfl, _, rfl, rfl⟩, rfl, by decide⟩

theorem witness_ResponseDependsOnBlockAndWord :
    State.reset.block = (State.reset.withScript [.readOut]).block ∧ State.reset ≠ State.reset.withScript [.readOut] := by
  decide

theorem witness_ResetRestoresEveryRegister :
    State.reset.block = State.reset.block ∧ ∃ t, exec .reset State.reset = .next t := ⟨rfl, _, rfl⟩

theorem witness_HardwareResetRestoresEveryRegister : { withBlock afterBuild with hwReset := true }.hwReset = true := rfl

/-- No command on the port: the host issues one, and the host takes a response; and an idle host with a built packet. -/
theorem witness_ResetMachineIsQuiet :
    ((withBlock afterBuild).withScript [.send 0x13000000#32]).hwReset = false ∧
    (∀ w, ((withBlock afterBuild).withScript [.send 0x13000000#32]).port ≠ .command w) ∧
    (∃ t, step ((withBlock afterBuild).withScript [.send 0x13000000#32]) = .next t ∧ t.port = .command 0x13000000#32) ∧
    (∃ t, step { withBlock afterBuild with port := .response 0x00000001#32 } = .next t ∧ t.port = .idle) ∧
    (withBlock afterBuild).port = .idle ∧ (withBlock afterBuild).host.script = [] ∧
    (withBlock afterBuild).host.driver.phase.active = false :=
  ⟨rfl, (by intro w h; cases h), ⟨_, rfl, rfl⟩, ⟨_, rfl, rfl⟩, rfl, rfl, rfl⟩

theorem witness_RdsrReadsTheNumberedRegister :
    (0#16).toNat ≤ 7 ∧ (7#16).toNat ≤ 7 ∧ 8 ≤ (8#16).toNat ∧ (withBlock afterBuild).block.fault = false ∧
    (withBlock faultedBlock).block.fault = true ∧
    ([afterBuild.cause ++ 0#6 ++ BitVec.ofBool afterBuild.half ++ BitVec.ofBool afterBuild.fault, afterBuild.acc,
      afterBuild.hold.setWidth 16, afterBuild.ptype.setWidth 16, afterBuild.ident, afterBuild.seq,
      BitVec.ofNat 16 afterBuild.mem.pay.length, BitVec.ofNat 16 afterBuild.mem.pkt.length] : List Half)[(7#16).toNat]?
      = some 9#16 := by decide

theorem witness_RunningSumIsTheFoldedSum : 0 < 1 ∧ 0 < 0x1FFFF := by norm_num

theorem witness_OnesAddLaws :
    (1#16 : Half) ≠ 0#16 ∧ onesAdd16 0#16 0#16 = 0#16 ∧ [1#16, 2#16].Perm [2#16, 1#16] := by decide

theorem witness_OddBufferChecksumIsThatOfThePadded : ([0xAB#8] : List Byte).length % 2 = 1 := by decide

theorem witness_ChecksummedBufferValidates :
    2 % 2 = 0 ∧ 2 + 1 < ([0x08#8, 0#8, 0#8, 0#8] : List Byte).length ∧
    ([0x08#8, 0#8, 0#8, 0#8] : List Byte)[2]? = some 0#8 ∧ ([0x08#8, 0#8, 0#8, 0#8] : List Byte)[2 + 1]? = some 0#8 := by
  decide

theorem witness_CsclrClearsTheEngine :
    (withBlock afterBuild).block.fault = false ∧ ∃ t, exec .csclr (withBlock afterBuild) = .next t := ⟨rfl, _, rfl⟩

theorem witness_CsbyteAbsorbsOneByte :
    State.reset.block.fault = false ∧ State.reset.block.half = false ∧ (withBlock afterBuild).block.half = true ∧
    (withBlock afterBuild).block.fault = false ∧ EngineHolds [0x12#8, 0x34#8, 0x56#8] (withBlock afterBuild).block ∧
    ∃ t, exec (.csbyte 0xFF#8) (withBlock afterBuild) = .next t :=
  ⟨rfl, rfl, rfl, rfl, holds_afterBuild, _, rfl⟩

theorem witness_CswordAbsorbsTwoBytes :
    State.reset.block.fault = false ∧ State.reset.block.half = false ∧ State.reset.block.hold = 0#8 ∧
    (withBlock afterBuild).block.fault = false ∧ (withBlock afterBuild).block.half = true := by decide

theorem witness_CsgetAnswersTheChecksum :
    State.reset.block.fault = false ∧ State.reset.block.half = false ∧ (withBlock afterBuild).block.fault = false ∧
    (withBlock afterBuild).block.half = true ∧ EngineHolds [0x12#8, 0x34#8, 0x56#8] (withBlock afterBuild).block :=
  ⟨rfl, rfl, rfl, rfl, holds_afterBuild⟩

theorem witness_EngineHoldsTheAbsorbedBytes :
    (EngineHolds [0x12#8, 0x34#8, 0x56#8] ((withBlock afterBuild).withFetchWord 32 0x11000001).block ∧
      ∃ t, step ((withBlock afterBuild).withFetchWord 32 0x11000001) = .next t) ∧
    EngineHolds [0#8, 0#8, 0x56#8] { Block.reset with half := true, hold := 0x56#8 } ∧
    ({ Block.reset with half := true, hold := 0x56#8 } : Block).acc = 0#16 :=
  ⟨⟨holds_afterBuild, _, rfl⟩, ⟨by decide, by decide, by decide⟩, rfl⟩

theorem witness_ChecksumProcedureComputesTheFunction : (withBlock afterBuild).block.fault = false := rfl

theorem witness_OperandCommandsStoreTheirOperand : (withBlock afterBuild).block.fault = false := rfl

theorem witness_PfclrEmptiesThePayload :
    (withBlock afterBuild).block.fault = false ∧ legalType (withBlock afterBuild).block.ptype = true ∧
    ∃ t u, exec .pfclr (withBlock afterBuild) = .next t ∧ exec .pfbuild t = .next u := ⟨rfl, rfl, _, _, rfl, rfl⟩

theorem witness_PfpushAppendsOneByte :
    (withBlock almostFull).block.fault = false ∧ (withBlock almostFull).block.mem.pay.length = 31 ∧
    (∃ t, exec (.pfpush 0xAA#8) (withBlock almostFull) = .next t) ∧ Addr.pay 30 ≠ (withBlock almostFull).block.pushAddr :=
  ⟨rfl, by decide, ⟨_, rfl⟩, by decide⟩

theorem witness_PfpushOverflowDropsTheByte :
    (withBlock fullBlock).block.fault = false ∧ (withBlock fullBlock).block.mem.pay.length = 32 := by decide

theorem witness_PfbuildBuildsThePacket :
    (withBlock fullBlock).block.fault = false ∧ (withBlock fullBlock).block.ptype = 0x08#8 ∧
    (withBlock fullBlock).block.mem.pay.length = 32 ∧ State.reset.block.ptype = 0x00#8 ∧
    ∃ t, exec .pfbuild (withBlock fullBlock) = .next t := ⟨rfl, rfl, by decide, rfl, _, rfl⟩

theorem witness_PfbuildBadTypeBuildsNothing :
    ∀ t ∈ [0x01#8, 0x07#8, 0x09#8, 0xFF#8], (withBlock { afterBuild with ptype := t }).block.fault = false ∧
      (withBlock { afterBuild with ptype := t }).block.ptype ≠ 0x00#8 ∧
      (withBlock { afterBuild with ptype := t }).block.ptype ≠ 0x08#8 := by decide

theorem witness_PfrdAnswersThePacketByte :
    (withBlock afterBuild).block.fault = false ∧
    (withBlock afterBuild).block.mem.read (.pkt (8#16).toNat) = some 0x61#8 ∧
    (withBlock afterBuild).block.mem.read (.pkt (0#16).toNat) = some 0x08#8 := by decide

theorem witness_PfrdBeyondThePacketFaults :
    (withBlock afterBuild).block.fault = false ∧ (withBlock afterBuild).block.mem.pkt.length ≤ (9#16).toNat ∧
    State.reset.block.fault = false ∧ State.reset.block.mem.pkt = [] := by decide

theorem witness_BuiltPacketIsSelfConsistent :
    (0x0000#16 : Half) ≠ 0xFFFF#16 ∧
    buildPacket [] 0x00#8 0x04A8#16 0x0000#16 =
      some [0x00#8, 0x00#8, 0xFB#8, 0x57#8, 0x04#8, 0xA8#8, 0x00#8, 0x00#8] ∧
    buildPacket [] 0x00#8 0x04A8#16 0xFFFF#16 =
      some [0x00#8, 0x00#8, 0xFB#8, 0x57#8, 0x04#8, 0xA8#8, 0xFF#8, 0xFF#8] := by decide

theorem witness_BuildPacketProcedureBuildsThePacket :
    (withBlock fullBlock).block.fault = false ∧ buildPacket [0x61#8] 0x08#8 0x1234#16 1#16 = some packetA := by decide

theorem witness_RegistersChangeOnlyAsTabled :
    (∃ t, exec .pfbuild (withBlock beforeBuild) = .next t ∧ t.block.fault = (withBlock beforeBuild).block.fault) ∧
    Instr.pfbuild ≠ .reset := ⟨⟨_, rfl, rfl⟩, by decide⟩

theorem witness_ReadsChangeNothingAndSettersAreIdempotent :
    (∃ t, exec (.pfrd 8#16) (withBlock afterBuild) = .next t) ∧ (∃ t, exec .csget (withBlock afterBuild) = .next t) ∧
    (∃ t, exec (.rdsr 7#16) (withBlock afterBuild) = .next t) ∧
    ∃ t u, exec .pfbuild (withBlock beforeBuild) = .next t ∧ t.block.fault = false ∧ exec .pfbuild t = .next u :=
  ⟨⟨_, rfl⟩, ⟨_, rfl⟩, ⟨_, rfl⟩, _, _, rfl, rfl, rfl⟩

theorem witness_BlockInvariantKeptByStep :
    ((withBlock afterBuild).withFetchWord 32 0x25000000).block.Inv ∧
    ∃ t, step ((withBlock afterBuild).withFetchWord 32 0x25000000) = .next t :=
  ⟨⟨by decide, by decide, by decide, by decide, .inr ⟨[0x61#8], 0x08#8, 0x1234#16, 1#16, by decide⟩⟩, _, rfl⟩

theorem witness_ScriptRunIsTheFoldOfCommands :
    Scripted (State.reset.withScript [.send 0x11000001#32, .send 0xFFFFFFFF#32, .readOut]) ∧
    (State.reset.withScript [.send 0x11000001#32, .send 0xFFFFFFFF#32, .readOut]).host.script =
      [0x11000001#32, 0xFFFFFFFF#32].map .send ++ [.readOut] := ⟨⟨rfl, rfl, rfl⟩, rfl⟩

theorem witness_ReadPacketReadsThePacketOut :
    Scripted ((withBlock afterBuild).withScript readPacketProc) ∧
    ((withBlock afterBuild).withScript readPacketProc).block.fault = false ∧
    ((withBlock afterBuild).withScript readPacketProc).block.mem.wf = true ∧
    ((withBlock afterBuild).withScript readPacketProc).host.script = readPacketProc ++ [] :=
  ⟨⟨rfl, rfl, rfl⟩, rfl, by decide, rfl⟩

theorem witness_AssemblerProducesNoIllegalWord :
    assembleLine "RDSR 7".toList = .ok [.send 0x02000007#32] ∧
    (pieces ' ' ("RDSR 7".toList.takeWhile (· ≠ ';'))).head? ≠ some ".word".toList ∧
    HostOp.send 0x02000007#32 ∈ [HostOp.send 0x02000007#32] := by decide

theorem witness_TransferSendsTheWholeStream :
    State.reset.hwReset = false ∧ State.reset.port = .idle ∧
    (chunks (List.replicate 33 0xFF#8)).length ≤ 0xFFFE ∧ (∀ ok ∈ [true, true, true], ok = true) ∧
    (chunks (List.replicate 33 0xFF#8)).length + 1 ≤ [true, true, true].length := by decide

theorem witness_TransmitFailureAbortsTheStream :
    State.reset.hwReset = false ∧ State.reset.port = .idle ∧
    (chunks (List.replicate 33 0xFF#8)).length ≤ 0xFFFE ∧ 2 ≤ (chunks (List.replicate 33 0xFF#8)).length := by decide

/-- A file of 33 bytes: two data packets, the first full, the second of one byte, and the end marker. -/
theorem witness_StreamHasTheStatedShape :
    (chunks (List.replicate 33 0xFF#8)).length ≤ 0xFFFE ∧ (List.replicate 33 0xFF#8).length = 33 ∧
    0 < (33 + 31) / 32 ∧ 1 < (33 + 31) / 32 ∧ 0 + 1 < (33 + 31) / 32 ∧
    ∃ K, (streamOf 0x04A8#16 (List.replicate 33 0xFF#8))[1]? = some K ∧ K.length = 9 :=
  ⟨by decide, by decide, by decide, by decide, by decide, _, rfl, by decide⟩

/-- A machine whose driver reads a chunk at the bound. -/
def atBound : State :=
  { State.reset with host := { HostAgent.idle with
      driver := { Driver.idle with phase := .reading, file := [0#8], counter := 0xFFFE } } }

theorem witness_DriverRefusesOnlyBeyondTheBound :
    atBound.hwReset = false ∧ atBound.port = .idle ∧ atBound.host.script = [] ∧
    atBound.host.driver.phase = .reading ∧ atBound.host.driver.file ≠ [] ∧ 0xFFFE ≤ atBound.host.driver.counter ∧
    step atBound = .refused .chunkBoundExceeded :=
  ⟨rfl, rfl, rfl, rfl, by decide, by decide, rfl⟩

end Sys2Proof.Tests
end

/-! # What a command can do to the block

`CommandEffect b i b' d` says in one relation what `exec` computes: the command `i` on the block `b` leaves the block `b'`
and answers `DATA = d`. Every command has an effect (`commandEffect_exists`) and `exec` realises it from every state with
that block (`exec_of_effect`); what single steps keep is then a case analysis over the effects. -/

namespace Sys2Proof.Machine

/-- The effect of a command on the block, with the `DATA` of its answer: one constructor per way a command can end. -/
inductive CommandEffect (b : Block) : Instr → Block → Half → Prop
  | reset : CommandEffect b .reset Block.reset 0#16
  /-- The refusal of R124. -/
  | refused {i : Instr} (hf : b.fault = true) (hr : i ≠ .reset) (hn : ∀ n, i = .rdsr n → 7 < n.toNat) :
      CommandEffect b i b 0#16
  | rdsr {n v : Half} (hv : b.sr n = some v) : CommandEffect b (.rdsr n) b v
  | rdsrReserved {n : Half} (hf : b.fault = false) (hn : 7 < n.toNat) :
      CommandEffect b (.rdsr n) (b.raised .illegalCommand) 0#16
  | csclr (hf : b.fault = false) : CommandEffect b .csclr b.csClear 0#16
  | csbyte {x : Byte} (hf : b.fault = false) : CommandEffect b (.csbyte x) (b.csByte x) 0#16
  | csword {w : Half} (hf : b.fault = false) : CommandEffect b (.csword w) (b.csWord w) 0#16
  | csget (hf : b.fault = false) : CommandEffect b .csget b (not16 b.csSum)
  | pftype {x : Byte} (hf : b.fault = false) : CommandEffect b (.pftype x) { b with ptype := x } 0#16
  | pfid {w : Half} (hf : b.fault = false) : CommandEffect b (.pfid w) { b with ident := w } 0#16
  | pfseq {w : Half} (hf : b.fault = false) : CommandEffect b (.pfseq w) { b with seq := w } 0#16
  | pfclr (hf : b.fault = false) : CommandEffect b .pfclr { b with mem := { b.mem with pay := [] } } 0#16
  | pfpush {x : Byte} (hf : b.fault = false) (room : b.mem.pay.length < 32) :
      CommandEffect b (.pfpush x) { b with mem := b.mem.write b.pushAddr x } 0#16
  | pfpushFull {x : Byte} (hf : b.fault = false) (full : ¬ b.mem.pay.length < 32) :
      CommandEffect b (.pfpush x) (b.raised .payloadOverflow) 0#16
  | pfbuild (hf : b.fault = false) (ht : legalType b.ptype = true) :
      CommandEffect b .pfbuild { b with mem := b.mem.buildPkt b.ptype b.ident b.seq }
        (BitVec.ofNat 16 (Config.headerLen + b.plen))
  | pfbuildBadType (hf : b.fault = false) (ht : legalType b.ptype = false) :
      CommandEffect b .pfbuild (Block.raised { b with mem := { b.mem with pkt := [] } } .badType) 0#16
  | pfrd {j : Half} {x : Byte} (hf : b.fault = false) (hx : b.mem.read (.pkt j.toNat) = some x) :
      CommandEffect b (.pfrd j) b (x.setWidth 16)
  | pfrdBeyond {j : Half} (hf : b.fault = false) (hj : b.mem.pkt.length ≤ j.toNat) :
      CommandEffect b (.pfrd j) (b.raised .indexRange) 0#16

/-- An offset reads no packet byte exactly when it is not below `PKTLEN`. -/
theorem Memory.read_pkt_eq_none (m : Memory) (k : Nat) : m.read (.pkt k) = none ↔ m.pkt.length ≤ k :=
  List.getElem?_eq_none_iff

/-- A register read-out fails exactly on the reserved numbers (R22). -/
theorem Block.sr_eq_none (b : Block) (n : Half) : b.sr n = none ↔ 7 < n.toNat := by
  refine ⟨fun h => ?_, b.sr_of_gt n⟩
  by_contra hn
  obtain ⟨v, hv⟩ := b.sr_of_le n (by omega)
  simp [h] at hv

/-- `exec` realises the effect, from every state that holds the block. -/
theorem exec_of_effect {s : State} {i : Instr} {b' : Block} {d : Half} (h : CommandEffect s.block i b' d) :
    exec i s = .next (s.answered b' d) := by
  cases h
  case reset => rfl
  case refused hf hr hn =>
    by_cases hi : ∃ n, i = .rdsr n
    · obtain ⟨n, rfl⟩ := hi
      simp [exec, execRdsr, Block.sr_of_gt _ _ (hn n rfl), illegalCommand, hf, refuse_eq]
    · rw [exec_of_faulted i s hf hr fun n e => hi ⟨n, e⟩, refuse_eq]
  case rdsr hv => simp [exec, execRdsr, hv, respond]
  case rdsrReserved hf hn => simp [exec, execRdsr, Block.sr_of_gt _ _ hn, illegalCommand, hf, raise_eq]
  case pfpush hf room => simp [exec, execPfpush, hf, Block.plen, Config.maxChunk, room, respond]
  case pfpushFull hf full => simp [exec, execPfpush, hf, Block.plen, Config.maxChunk, full, raise_eq]
  case pfbuild hf ht => simp [exec, execPfbuild, hf, ht, respond]
  case pfbuildBadType hf ht => simp [exec, execPfbuild, hf, ht, raise_eq]
  case pfrd hf hx => simp [exec, execPfrd, hf, hx, respond]
  case pfrdBeyond hf hj => simp [exec, execPfrd, hf, (Memory.read_pkt_eq_none _ _).2 hj, raise_eq]
  all_goals exact unlessFaulted_of_clear _ _ ‹_›

/-- Every command has an effect on every block. -/
theorem commandEffect_exists (i : Instr) (b : Block) : ∃ b' d, CommandEffect b i b' d := by
  cases hf : b.fault with
  | true =>
    cases i
    case reset => exact ⟨_, _, .reset⟩
    case rdsr n =>
      cases hv : b.sr n with
      | some v => exact ⟨_, _, .rdsr hv⟩
      | none => exact ⟨_, _, .refused hf nofun fun _ e => by cases e; exact (b.sr_eq_none n).1 hv⟩
    all_goals exact ⟨_, _, .refused hf nofun nofun⟩
  | false =>
    cases i
    case reset => exact ⟨_, _, .reset⟩
    case rdsr n =>
      cases hv : b.sr n with
      | some v => exact ⟨_, _, .rdsr hv⟩
      | none => exact ⟨_, _, .rdsrReserved hf ((b.sr_eq_none n).1 hv)⟩
    case csclr => exact ⟨_, _, .csclr hf⟩
    case csbyte x => exact ⟨_, _, .csbyte hf⟩
    case csword w => exact ⟨_, _, .csword hf⟩
    case csget => exact ⟨_, _, .csget hf⟩
    case pftype x => exact ⟨_, _, .pftype hf⟩
    case pfid w => exact ⟨_, _, .pfid hf⟩
    case pfseq w => exact ⟨_, _, .pfseq hf⟩
    case pfclr => exact ⟨_, _, .pfclr hf⟩
    case pfpush x =>
      by_cases room : b.mem.pay.length < 32
      · exact ⟨_, _, .pfpush hf room⟩
      · exact ⟨_, _, .pfpushFull hf room⟩
    case pfbuild =>
      cases ht : legalType b.ptype with
      | true => exact ⟨_, _, .pfbuild hf ht⟩
      | false => exact ⟨_, _, .pfbuildBadType hf ht⟩
    case pfrd j =>
      cases hx : b.mem.read (.pkt j.toNat) with
      | some x => exact ⟨_, _, .pfrd hf hx⟩
      | none => exact ⟨_, _, .pfrdBeyond hf ((Memory.read_pkt_eq_none _ _).1 hx)⟩

/-- Inversion of `exec`: the next state is the answered state of an effect. -/
theorem exec_effect {i : Instr} {s t : State} (h : exec i s = .next t) :
    ∃ b' d, CommandEffect s.block i b' d ∧ t = s.answered b' d := by
  obtain ⟨b', d, he⟩ := commandEffect_exists i s.block
  rw [exec_of_effect he, Host.Outcome.next.injEq] at h
  exact ⟨b', d, he, h.symm⟩

/-! ### A command word, and a step of the machine -/

/-- The effect of a command word on the block (R123). -/
inductive WordEffect (b : Block) (w : Word) : Block → Half → Prop
  | command {i : Instr} {b' : Block} {d : Half} (hw : decode w = .command i) (he : CommandEffect b i b' d) :
      WordEffect b w b' d
  | illegal {why : Illegal} (hw : decode w = .illegal why) (hf : b.fault = false) :
      WordEffect b w (b.raised .illegalCommand) 0#16
  | illegalRefused {why : Illegal} (hw : decode w = .illegal why) (hf : b.fault = true) : WordEffect b w b 0#16

/-- `runCommand` realises the effect of the word, from every state that holds the block. -/
theorem runCommand_of_effect {s : State} {w : Word} {b' : Block} {d : Half} (h : WordEffect s.block w b' d) :
    runCommand w s = .next (s.answered b' d) := by
  cases h with
  | command hw he => rw [runCommand_of_command w s _ hw, exec_of_effect he]
  | illegal hw hf => rw [runCommand_of_illegal w s _ hw, illegalCommand, unlessFaulted_of_clear _ _ hf, raise_eq]
  | illegalRefused hw hf => rw [runCommand_of_illegal w s _ hw, illegalCommand, unlessFaulted_of_faulted _ _ hf, refuse_eq]

/-- Every word has an effect on every block. -/
theorem wordEffect_exists (w : Word) (b : Block) : ∃ b' d, WordEffect b w b' d := by
  cases hw : decode w with
  | command i =>
    obtain ⟨b', d, he⟩ := commandEffect_exists i b
    exact ⟨b', d, .command hw he⟩
  | illegal why =>
    cases hf : b.fault with
    | true => exact ⟨_, _, .illegalRefused hw hf⟩
    | false => exact ⟨_, _, .illegal hw hf⟩

/-- Inversion of `runCommand`. -/
theorem runCommand_effect {w : Word} {s t : State} (h : runCommand w s = .next t) :
    ∃ b' d, WordEffect s.block w b' d ∧ t = s.answered b' d := by
  obtain ⟨b', d, he⟩ := wordEffect_exists w s.block
  rw [runCommand_of_effect he, Host.Outcome.next.injEq] at h
  exact ⟨b', d, he, h.symm⟩

/-- What one step of the machine can make of the block: a hardware reset, the effect of the outstanding word, or a move
of the host, which leaves it. -/
inductive StepEffect (s : State) : Block → Prop
  | hwReset (hr : s.hwReset = true) : StepEffect s Block.reset
  | word {w : Word} {b' : Block} {d : Half} (hr : s.hwReset = false) (hp : s.port = .command w)
      (he : WordEffect s.block w b' d) : StepEffect s b'
  | host (hr : s.hwReset = false) (hp : ∀ w, s.port ≠ .command w) : StepEffect s s.block

/-- Inversion of `step`, on the block. -/
theorem step_effect {s t : State} (h : step s = .next t) : StepEffect s t.block := by
  cases hr : s.hwReset with
  | true =>
    rw [step_of_hwReset s hr] at h
    cases h
    exact .hwReset hr
  | false =>
    cases hp : s.port with
    | command w =>
      rw [step_of_command s w hr hp] at h
      obtain ⟨b', d, he, rfl⟩ := runCommand_effect h
      exact .word hr hp he
    | response r =>
      rw [step_of_response s r hr hp] at h
      cases h
      exact .host hr fun w e => by simp [hp] at e
    | idle =>
      rw [step_of_idle s hr hp] at h
      rw [hostIssue_block s t h]
      exact .host hr fun w e => by simp [hp] at e

end Sys2Proof.Machine

/-! # The checksum engine's registers and the bytes absorbed (10_state.md R16) -/

namespace Sys2Proof.Machine

/-! ### The fold in closed form -/

/-- The fold in closed form, for any bound on the passes that is not below the value: 0 for 0, otherwise the number from
1 to 0xFFFF in the residue class modulo 0xFFFF. -/
theorem foldLoop_eq (fuel s : Nat) (h : s ≤ fuel) : foldLoop fuel s = if s = 0 then 0 else (s - 1) % 0xFFFF + 1 := by
  induction fuel generalizing s with
  | zero => simp [foldLoop, Nat.le_zero.1 h]
  | succ fuel ih =>
    by_cases hs : s ≤ 0xFFFF
    · rw [foldLoop_of_le _ _ hs]
      split <;> omega
    · have hlt := foldPass_lt s (by omega)
      rw [foldLoop_of_gt _ _ (by omega), ih _ (by omega)]
      split <;> split <;> omega

/-- `fold16` in closed form (R66). -/
theorem fold16_eq (s : Nat) : fold16 s = if s = 0 then 0 else (s - 1) % 0xFFFF + 1 := foldLoop_eq s s le_rfl

theorem fold16_le (s : Nat) : fold16 s ≤ 0xFFFF := by
  rw [fold16_eq]
  split <;> omega

/-- A fold fits the 16-bit accumulator. -/
@[simp] theorem ofNat_fold16_toNat (s : Nat) : (BitVec.ofNat 16 (fold16 s)).toNat = fold16 s := by
  have := fold16_le s
  rw [BitVec.toNat_ofNat, Nat.mod_eq_of_lt (by omega)]

theorem fold16_eq_zero (s : Nat) : fold16 s = 0 ↔ s = 0 := by
  rw [fold16_eq]
  split <;> omega

/-- Folding early does not matter. -/
theorem fold16_fold16_add (x n : Nat) : fold16 (fold16 x + n) = fold16 (x + n) := by
  simp only [fold16_eq]
  split <;> split <;> split <;> omega

/-- The add with end-around carry is the fold of the sum. -/
theorem onesAdd16_toNat_eq_fold16 (a b : Half) : (onesAdd16 a b).toNat = fold16 (a.toNat + b.toNat) := by
  have ha := a.isLt
  have hb := b.isLt
  rw [onesAdd16_toNat, fold16_eq]
  split <;> split <;> omega

/-- The running sum takes one more word. -/
theorem onesAdd16_ofNat_fold16 (x : Nat) (w : Half) :
    onesAdd16 (BitVec.ofNat 16 (fold16 x)) w = BitVec.ofNat 16 (fold16 (x + w.toNat)) := by
  apply BitVec.eq_of_toNat_eq
  rw [onesAdd16_toNat_eq_fold16, ofNat_fold16_toNat, ofNat_fold16_toNat, fold16_fold16_add]

/-- A sum with end-around carry is 0 only for two zeros (R71). -/
theorem onesAdd16_eq_zero (a b : Half) : onesAdd16 a b = 0#16 ↔ a = 0#16 ∧ b = 0#16 := by
  simp only [BitVec.toNat_eq, onesAdd16_toNat_eq_fold16, BitVec.toNat_ofNat, Nat.zero_mod, fold16_eq_zero,
    Nat.add_eq_zero_iff]

/-! ### The word sum of a buffer -/

/-- The word sum of two buffers, the first of even length. -/
theorem wsum_append {A : List Byte} (B : List Byte) (h : A.length % 2 = 0) : wsum (A ++ B) = wsum A + wsum B := by
  induction A using wordsOf.induct with
  | case1 x y rest ih =>
    have hr : rest.length % 2 = 0 := by simp only [List.length_cons] at h; omega
    simp only [List.cons_append, wsum_cons_cons, ih hr, Nat.add_assoc]
  | case2 A hA =>
    match A, hA, h with
    | [], _, _ => simp
    | [x], _, h => simp at h
    | x :: y :: rest, hA, _ => exact absurd rfl (hA x y rest)

theorem word_toNat_eq_zero (h l : Byte) : (word h l).toNat = 0 ↔ h = 0#8 ∧ l = 0#8 := by
  simp only [word_toNat, BitVec.toNat_eq, BitVec.toNat_ofNat, Nat.zero_mod]
  omega

/-- The word sum is 0 only of an all-zero buffer. -/
theorem wsum_eq_zero (A : List Byte) : wsum A = 0 ↔ ∀ x ∈ A, x = 0#8 := by
  induction A using wordsOf.induct with
  | case1 x y rest ih => simp [ih, word_toNat_eq_zero, and_assoc]
  | case2 A hA =>
    match A, hA with
    | [], _ => simp
    | [x], _ => simp [word_toNat_eq_zero]
    | x :: y :: rest, hA => exact absurd rfl (hA x y rest)

theorem evenPrefix_of_even {A : List Byte} (h : A.length % 2 = 0) : evenPrefix A = A :=
  List.take_of_length_le (by omega)

/-- The last byte of an odd number of bytes belongs to no complete word. -/
theorem evenPrefix_append_single {A : List Byte} (x : Byte) (h : A.length % 2 = 0) : evenPrefix (A ++ [x]) = A := by
  have e : 2 * ((A ++ [x]).length / 2) = A.length := by simp only [List.length_append, List.length_singleton]; omega
  rw [evenPrefix, e, List.take_left]

/-- An odd number of bytes is its complete words and a pending byte. -/
theorem evenPrefix_append_getLastD {A : List Byte} (h : A.length % 2 = 1) :
    evenPrefix A ++ [A.getLastD 0#8] = A ∧ (evenPrefix A).length % 2 = 0 := by
  rcases A.eq_nil_or_concat' with rfl | ⟨P, x, rfl⟩
  · simp at h
  · have hP : P.length % 2 = 0 := by simp only [List.length_append, List.length_singleton] at h; omega
    rw [evenPrefix_append_single x hP]
    simpa using hP

/-! ### The engine's commands on the absorbed bytes -/

/-- After a clear no byte is absorbed. -/
theorem engineHolds_nil_iff (b : Block) : EngineHolds [] b ↔ b.half = false ∧ b.hold = 0#8 ∧ b.acc = 0#16 :=
  ⟨fun ⟨hh, hd, ha⟩ => ⟨hh, hd, ha⟩, fun ⟨hh, hd, ha⟩ => ⟨hh, hd, ha⟩⟩

/-- The registers of the engine decide the invariant. -/
theorem EngineHolds.congr {A : List Byte} {b b' : Block} (h : EngineHolds A b) (hacc : b'.acc = b.acc)
    (hhalf : b'.half = b.half) (hhold : b'.hold = b.hold) : EngineHolds A b' :=
  ⟨hhalf ▸ h.half, hhold ▸ h.hold, hacc ▸ h.acc⟩

theorem EngineHolds.half_eq_true {A : List Byte} {b : Block} (h : EngineHolds A b) (hb : b.half = true) :
    A.length % 2 = 1 := by
  simpa [h.half] using hb

theorem EngineHolds.half_eq_false {A : List Byte} {b : Block} (h : EngineHolds A b) (hb : b.half = false) :
    A.length % 2 = 0 := by
  simpa [h.half] using hb

/-- No byte is pending after an even number of bytes (R15). -/
theorem EngineHolds.hold_eq_zero {A : List Byte} {b : Block} (h : EngineHolds A b) (hb : b.half = false) :
    b.hold = 0#8 := by
  simp [h.hold, h.half_eq_false hb]

theorem Block.csByte_of_half {b : Block} (x : Byte) (h : b.half = true) :
    b.csByte x = { b with acc := onesAdd16 b.acc (word b.hold x), hold := 0#8, half := false } := by
  simp [Block.csByte, h]

theorem Block.csByte_of_not_half {b : Block} (x : Byte) (h : b.half = false) :
    b.csByte x = { b with hold := x, half := true } := by
  simp [Block.csByte, h]

theorem Block.csWord_of_half {b : Block} (w : Half) (h : b.half = true) :
    b.csWord w = { b with acc := onesAdd16 b.acc (word b.hold (hi8 w)), hold := lo8 w } := by
  simp [Block.csWord, h]

theorem Block.csWord_of_not_half {b : Block} (w : Half) (h : b.half = false) :
    b.csWord w = { b with acc := onesAdd16 b.acc w } := by
  simp [Block.csWord, h]

/-- CSWORD is CSBYTE of its high byte, then CSBYTE of its low byte (R69), where no stale byte is held. -/
theorem Block.csWord_eq_csByte_csByte {b : Block} (w : Half) (h : b.half = false → b.hold = 0#8) :
    b.csWord w = (b.csByte (hi8 w)).csByte (lo8 w) := by
  cases hb : b.half with
  | true =>
    rw [b.csWord_of_half w hb, b.csByte_of_half _ hb, Block.csByte_of_not_half _ rfl, ← hb]
  | false =>
    rw [b.csWord_of_not_half w hb, b.csByte_of_not_half _ hb, Block.csByte_of_half _ rfl, word_hi8_lo8, ← hb, ← h hb]

/-- CSBYTE appends its byte to the absorbed bytes (R68). -/
theorem EngineHolds.csByte {A : List Byte} {b : Block} (h : EngineHolds A b) (x : Byte) :
    EngineHolds (A ++ [x]) (b.csByte x) := by
  cases hb : b.half with
  | true =>
    have hA := h.half_eq_true hb
    obtain ⟨hsplit, heven⟩ := evenPrefix_append_getLastD hA
    have hlen : (A ++ [x]).length % 2 = 0 := by simp only [List.length_append, List.length_singleton]; omega
    have hsum : wsum (A ++ [x]) = wsum (evenPrefix A) + (word b.hold x).toNat := by
      calc wsum (A ++ [x]) = wsum (evenPrefix A ++ [A.getLastD 0#8, x]) := by
            conv_lhs => rw [← hsplit]
            simp
        _ = wsum (evenPrefix A) + (word b.hold x).toNat := by simp [wsum_append _ heven, h.hold, hA]
    rw [Block.csByte_of_half x hb]
    exact ⟨by rw [hlen]; rfl, by rw [hlen]; rfl, by
      rw [evenPrefix_of_even hlen, hsum, h.acc, onesAdd16_ofNat_fold16]⟩
  | false =>
    have hA := h.half_eq_false hb
    have hlen : (A ++ [x]).length % 2 = 1 := by simp only [List.length_append, List.length_singleton]; omega
    rw [Block.csByte_of_not_half x hb]
    exact ⟨by rw [hlen]; rfl, by rw [hlen]; simp, by
      rw [evenPrefix_append_single x hA, h.acc, evenPrefix_of_even hA]⟩

/-- CSWORD appends its two bytes, high byte first (R69). -/
theorem EngineHolds.csWord {A : List Byte} {b : Block} (h : EngineHolds A b) (w : Half) :
    EngineHolds (A ++ be16 w) (b.csWord w) := by
  rw [Block.csWord_eq_csByte_csByte w h.hold_eq_zero, be16, List.append_cons]
  exact (h.csByte (hi8 w)).csByte (lo8 w)

/-- `ACC = 0` only if every complete word absorbed is zero. -/
theorem EngineHolds.evenPrefix_eq_zero {A : List Byte} {b : Block} (h : EngineHolds A b) (hacc : b.acc = 0#16) :
    ∀ x ∈ evenPrefix A, x = 0#8 := by
  have hfold := congrArg BitVec.toNat (h.acc.symm.trans hacc)
  rw [ofNat_fold16_toNat] at hfold
  exact (wsum_eq_zero _).1 ((fold16_eq_zero _).1 hfold)

/-- A command refused while FAULTED absorbs nothing. -/
theorem absorbedAfter_faulted (A : List Byte) {i : Instr} (hi : i ≠ .reset) : absorbedAfter true A i = A := by
  cases i
  case reset => exact absurd rfl hi
  all_goals rfl

/-- A command other than CSCLR, CSBYTE, CSWORD and RESET leaves the engine's registers. -/
theorem CommandEffect.engine_eq {b b' : Block} {i : Instr} {d : Half} (h : CommandEffect b i b' d) (hr : i ≠ .reset)
    (hb : ∀ x, i ≠ .csbyte x) (hw : ∀ w, i ≠ .csword w) (hc : i ≠ .csclr) :
    b'.acc = b.acc ∧ b'.half = b.half ∧ b'.hold = b.hold := by
  cases h
  case reset => exact absurd rfl hr
  case csbyte x _ => exact absurd rfl (hb x)
  case csword w _ => exact absurd rfl (hw w)
  case csclr => exact absurd rfl hc
  all_goals exact ⟨rfl, rfl, rfl⟩

/-- Every command keeps the engine's invariant, with the bytes absorbed after it. -/
theorem CommandEffect.engineHolds {b b' : Block} {i : Instr} {d : Half} (h : CommandEffect b i b' d) {A : List Byte}
    (hA : EngineHolds A b) : EngineHolds (absorbedAfter b.fault A i) b' := by
  cases h
  case reset => exact (engineHolds_nil_iff _).2 ⟨rfl, rfl, rfl⟩
  case refused hf hr _ => rwa [hf, absorbedAfter_faulted A hr]
  case csclr hf => simpa [absorbedAfter, hf] using (engineHolds_nil_iff b.csClear).2 ⟨rfl, rfl, rfl⟩
  case csbyte x hf => simpa [absorbedAfter, hf] using hA.csByte x
  case csword w hf => simpa [absorbedAfter, hf] using hA.csWord w
  all_goals exact hA.congr rfl rfl rfl

/-- Every step keeps the engine's invariant, with the bytes absorbed after it. -/
theorem StepEffect.engineHolds {s : State} {b' : Block} (h : StepEffect s b') {A : List Byte}
    (hA : EngineHolds A s.block) : EngineHolds (absorbedByStep s A) b' := by
  cases h with
  | hwReset hr => simpa [absorbedByStep, hr] using (engineHolds_nil_iff Block.reset).2 ⟨rfl, rfl, rfl⟩
  | word hr hp he =>
    cases he with
    | command hw he => simpa [absorbedByStep, hr, hp, hw] using he.engineHolds hA
    | illegal hw _ => simpa [absorbedByStep, hr, hp, hw] using hA.congr (b' := s.block.raised .illegalCommand) rfl rfl rfl
    | illegalRefused hw _ => simpa [absorbedByStep, hr, hp, hw] using hA
  | host hr hp =>
    cases hport : s.port with
    | command w => exact absurd hport (hp w)
    | response r => simpa [absorbedByStep, hr, hport] using hA
    | idle => simpa [absorbedByStep, hr, hport] using hA

/-- Once the accumulator is not 0 it stays so until the next clear. -/
theorem CommandEffect.acc_ne_zero {b b' : Block} {i : Instr} {d : Half} (h : CommandEffect b i b' d) (hr : i ≠ .reset)
    (hc : i ≠ .csclr) (hacc : b.acc ≠ 0#16) : b'.acc ≠ 0#16 := by
  cases h
  case reset => exact absurd rfl hr
  case csclr => exact absurd rfl hc
  case csbyte x _ =>
    unfold Block.csByte
    split
    · exact fun e => hacc ((onesAdd16_eq_zero _ _).1 e).1
    · exact hacc
  case csword w _ =>
    unfold Block.csWord
    split <;> exact fun e => hacc ((onesAdd16_eq_zero _ _).1 e).1
  all_goals exact hacc

end Sys2Proof.Machine

namespace Sys2Proof.Proofs

open Sys2Proof.Machine

/-- Settles O25: the step lemma over the effects of a step, with the fold in closed form for the sum of the complete
words. -/
theorem engineHoldsTheAbsorbedBytes : Obligations.EngineHoldsTheAbsorbedBytes := by
  refine ⟨(engineHolds_nil_iff _).2 ⟨rfl, rfl, rfl⟩, fun s t A hA h => (step_effect h).engineHolds hA,
    fun b A hA hacc => hA.evenPrefix_eq_zero hacc, fun i s t h hr hc hacc => ?_⟩
  obtain ⟨b', d, he, rfl⟩ := exec_effect h
  exact he.acc_ne_zero hr hc hacc

end Sys2Proof.Proofs

/-! # The invariant of the block (10_state.md R12, R15, R20, R21, 30_encoding.md R54) -/

namespace Sys2Proof.Machine

/-- The reset values meet the invariant. -/
theorem Block.inv_reset : Block.reset.Inv where
  faultIffCause := by decide
  causeAtMost4 := by decide
  holdZero _ := rfl
  memWf := Memory.wf_empty
  pktBuilt := .inl rfl

/-- The code of a cause is one of 1 to 4 (60_exceptions.md R117). -/
theorem Cause.code_bounds (c : Cause) : c.code ≠ 0#8 ∧ c.code.toNat ≤ 4 := by
  cases c <;> decide

/-- Fault entry keeps the invariant (R121). -/
theorem Block.Inv.raised {b : Block} (h : b.Inv) (c : Cause) : (b.raised c).Inv where
  faultIffCause := by simp [c.code_bounds.1]
  causeAtMost4 := c.code_bounds.2
  holdZero := h.holdZero
  memWf := h.memWf
  pktBuilt := h.pktBuilt

/-- An update that leaves the fault registers and the buffers, and holds no stale byte, keeps the invariant. -/
theorem Block.Inv.congr {b b' : Block} (h : b.Inv) (hfault : b'.fault = b.fault) (hcause : b'.cause = b.cause)
    (hmem : b'.mem = b.mem) (hhold : b'.half = false → b'.hold = 0#8) : b'.Inv where
  faultIffCause := by rw [hfault, hcause]; exact h.faultIffCause
  causeAtMost4 := hcause ▸ h.causeAtMost4
  holdZero := hhold
  memWf := hmem ▸ h.memWf
  pktBuilt := hmem ▸ h.pktBuilt

/-- An update of the buffers that keeps their bounds and leaves `PKT` built or empty keeps the invariant. -/
theorem Block.Inv.withMem {b : Block} (h : b.Inv) {m : Memory} (hwf : m.wf = true)
    (hpkt : m.pkt = [] ∨ ∃ P T I S, buildPacket P T I S = some m.pkt) : ({ b with mem := m } : Block).Inv where
  faultIffCause := h.faultIffCause
  causeAtMost4 := h.causeAtMost4
  holdZero := h.holdZero
  memWf := hwf
  pktBuilt := hpkt

theorem Block.Inv.csByte {b : Block} (h : b.Inv) (x : Byte) : (b.csByte x).Inv := by
  refine h.congr (by simp) (by simp) (by simp) fun hhalf => ?_
  have hb : b.half = true := by simpa using hhalf
  rw [Block.csByte_of_half x hb]

theorem Block.Inv.csWord {b : Block} (h : b.Inv) (w : Half) : (b.csWord w).Inv := by
  refine h.congr (by simp) (by simp) (by simp) fun hhalf => ?_
  have hb : b.half = false := by simpa using hhalf
  rw [Block.csWord_of_not_half w hb]
  exact h.holdZero hb

/-- The function has a result on a legal type and a payload within the bound (R77 to R79). -/
theorem buildPacket_of_legal {P : List Byte} {T : Byte} (I S : Half) (hT : legalType T = true) (hP : P.length ≤ 32) :
    buildPacket P T I S = some (packetBytes P T I S) := by
  simp [buildPacket, hT, Config.maxChunk, hP]

/-- What PFBUILD stores is a packet that `buildPacket` returns (R54). -/
theorem Block.Inv.buildPkt {b : Block} (h : b.Inv) (ht : legalType b.ptype = true) :
    ({ b with mem := b.mem.buildPkt b.ptype b.ident b.seq } : Block).Inv := by
  refine h.withMem (Memory.wf_buildPkt _ _ _ _ h.memWf) (.inr ⟨b.mem.pay, b.ptype, b.ident, b.seq, ?_⟩)
  rw [Memory.buildPkt_eq]
  exact buildPacket_of_legal _ _ ht ((Memory.wf_iff _).1 h.memWf).1

/-- Every command keeps the block's invariant. -/
theorem CommandEffect.inv {b b' : Block} {i : Instr} {d : Half} (h : CommandEffect b i b' d) (hb : b.Inv) : b'.Inv := by
  cases h
  case reset => exact Block.inv_reset
  case csclr => exact hb.congr rfl rfl rfl fun _ => rfl
  case csbyte x _ => exact hb.csByte x
  case csword w _ => exact hb.csWord w
  case pftype => exact hb.congr rfl rfl rfl hb.holdZero
  case pfid => exact hb.congr rfl rfl rfl hb.holdZero
  case pfseq => exact hb.congr rfl rfl rfl hb.holdZero
  case pfclr => exact hb.withMem (Memory.wf_clearPay _ hb.memWf) hb.pktBuilt
  case pfpush x _ room => exact hb.withMem (Memory.wf_push _ x hb.memWf room) hb.pktBuilt
  case pfbuild _ ht => exact hb.buildPkt ht
  case pfbuildBadType => exact (hb.withMem (Memory.wf_clearPkt _ hb.memWf) (.inl rfl)).raised _
  case rdsrReserved | pfpushFull | pfrdBeyond => exact hb.raised _
  all_goals exact hb

/-- Every step keeps the block's invariant. -/
theorem StepEffect.inv {s : State} {b' : Block} (h : StepEffect s b') (hs : s.block.Inv) : b'.Inv := by
  cases h with
  | hwReset => exact Block.inv_reset
  | word _ _ he =>
    cases he with
    | command _ he => exact he.inv hs
    | illegal => exact hs.raised _
    | illegalRefused => exact hs
  | host => exact hs

end Sys2Proof.Machine

namespace Sys2Proof.Proofs

open Sys2Proof.Machine

/-- Settles O40: both buffers are empty and every register holds its reset value. -/
theorem resetMeetsTheBlockInvariant : Obligations.ResetMeetsTheBlockInvariant := Block.inv_reset

/-- Settles O39: by the effects of a step. -/
theorem blockInvariantKeptByStep : Obligations.BlockInvariantKeptByStep :=
  fun _ _ hs h => (step_effect h).inv hs

end Sys2Proof.Proofs

/-! # Which registers a command writes, what it depends on, and how `FAULT` changes (10_state.md R10, R11, R27) -/

namespace Sys2Proof.Machine

/-! ### The column "written by" of R10, one lemma per register or buffer -/

section WrittenBy

variable {b b' : Block} {i : Instr} {d : Half}

theorem CommandEffect.ptype_eq (h : CommandEffect b i b' d) (hr : i ≠ .reset) (hi : ∀ x, i ≠ .pftype x) :
    b'.ptype = b.ptype := by
  cases h
  case reset => exact absurd rfl hr
  case pftype x _ => exact absurd rfl (hi x)
  all_goals simp

theorem CommandEffect.ident_eq (h : CommandEffect b i b' d) (hr : i ≠ .reset) (hi : ∀ w, i ≠ .pfid w) :
    b'.ident = b.ident := by
  cases h
  case reset => exact absurd rfl hr
  case pfid w _ => exact absurd rfl (hi w)
  all_goals simp

theorem CommandEffect.seq_eq (h : CommandEffect b i b' d) (hr : i ≠ .reset) (hi : ∀ w, i ≠ .pfseq w) :
    b'.seq = b.seq := by
  cases h
  case reset => exact absurd rfl hr
  case pfseq w _ => exact absurd rfl (hi w)
  all_goals simp

theorem CommandEffect.pay_eq (h : CommandEffect b i b' d) (hr : i ≠ .reset) (hc : i ≠ .pfclr)
    (hp : ∀ x, i ≠ .pfpush x) : b'.mem.pay = b.mem.pay := by
  cases h
  case reset => exact absurd rfl hr
  case pfclr => exact absurd rfl hc
  case pfpush x _ _ => exact absurd rfl (hp x)
  case pfbuild => rw [Memory.buildPkt_eq]
  all_goals simp

theorem CommandEffect.pkt_eq (h : CommandEffect b i b' d) (hr : i ≠ .reset) (hi : i ≠ .pfbuild) :
    b'.mem.pkt = b.mem.pkt := by
  cases h
  case reset => exact absurd rfl hr
  case pfbuild => exact absurd rfl hi
  case pfbuildBadType => exact absurd rfl hi
  case pfpush => exact Memory.write_pay_pkt _ _ _
  all_goals simp

/-- `CAUSE` is written by fault entry and RESET alone, and fault entry comes only to a block that is not FAULTED. -/
theorem CommandEffect.cause_eq (h : CommandEffect b i b' d) (hr : i ≠ .reset) (hf : b'.fault = b.fault) :
    b'.cause = b.cause := by
  cases h
  case reset => exact absurd rfl hr
  case rdsrReserved hclear _ => simp [hclear] at hf
  case pfpushFull hclear _ => simp [hclear] at hf
  case pfbuildBadType hclear _ => simp [hclear] at hf
  case pfrdBeyond hclear _ => simp [hclear] at hf
  all_goals simp

end WrittenBy

/-! ### How `FAULT` changes -/

theorem decodeN_eq_command (arg : Half) (c i : Instr) : decodeN arg c = .command i ↔ arg = 0#16 ∧ c = i := by
  rw [decodeN_eq]
  split <;> simp_all

theorem decodeB_eq_command (arg : Half) (mk : Byte → Instr) (i : Instr) :
    decodeB arg mk = .command i ↔ arg.extractLsb' 8 8 = 0#8 ∧ mk (byteOperand arg) = i := by
  rw [decodeB_eq]
  split <;> simp_all

theorem decodeS_eq_command (arg : Half) (mk : Half → Instr) (i : Instr) :
    decodeS arg mk = .command i ↔ arg.toNat ≤ 7 ∧ mk arg = i := by
  rw [decodeS_eq]
  split <;> simp_all

/-- What the decoder reads from an opcode and an operand field has that opcode, that operand, and is well formed. The
cases are the argument forms of R47. -/
theorem decodeOp_eq_command {op : Byte} {arg : Half} {i : Instr} (h : decodeOp op arg = .command i) :
    i.opcode = op ∧ i.arg = arg ∧ i.WellFormed = true := by
  unfold decodeOp at h
  split at h
  case h_1 | h_3 | h_6 | h_10 | h_12 =>
    obtain ⟨rfl, rfl⟩ := (decodeN_eq_command _ _ _).1 h
    exact ⟨rfl, rfl, rfl⟩
  case h_4 | h_7 | h_11 =>
    obtain ⟨hhigh, rfl⟩ := (decodeB_eq_command _ _ _).1 h
    exact ⟨rfl, setWidth_byteOperand _ hhigh, rfl⟩
  case h_2 =>
    obtain ⟨hle, rfl⟩ := (decodeS_eq_command _ _ _).1 h
    exact ⟨rfl, rfl, decide_eq_true hle⟩
  case h_5 | h_8 | h_9 | h_13 =>
    cases h
    exact ⟨rfl, rfl, rfl⟩
  case h_14 => cases h

/-- A word that decodes to a command is that command's encoding, and the command is well formed (R49). -/
theorem decode_eq_command {w : Word} {i : Instr} (h : decode w = .command i) : i.WellFormed = true ∧ encode i = w := by
  rw [decode_eq] at h
  split at h
  case isTrue hm =>
    obtain ⟨hop, harg, hwf⟩ := decodeOp_eq_command h
    exact ⟨hwf, by rw [encode, hop, harg, commandWord_fields w hm]⟩
  case isFalse => cases h

theorem legalType_eq_false (T : Byte) : legalType T = false ↔ T ≠ 0x00#8 ∧ T ≠ 0x08#8 := by
  simp [legalType, Config.typeEcho, Config.typeEchoReply, and_comm]

/-- A command other than RESET does not clear `FAULT` (R125). -/
theorem CommandEffect.eq_reset_of_cleared {b b' : Block} {i : Instr} {d : Half} (h : CommandEffect b i b' d)
    (hf : b.fault = true) (hf' : b'.fault = false) : i = .reset := by
  by_contra hr
  cases h
  case reset => exact hr rfl
  all_goals simp_all

/-- What sets `FAULT`, with its cause: a reserved register number, an unsupported type, a full payload buffer, an offset
beyond the packet (R117). -/
theorem CommandEffect.cause_of_set {b b' : Block} {i : Instr} {d : Half} (h : CommandEffect b i b' d)
    (hf : b.fault = false) (hf' : b'.fault = true) :
    (b'.cause = 1#8 ∧ i.WellFormed = false) ∨
    (b'.cause = 2#8 ∧ i = .pfbuild ∧ b.ptype ≠ 0x00#8 ∧ b.ptype ≠ 0x08#8) ∨
    (b'.cause = 3#8 ∧ (∃ x, i = .pfpush x) ∧ ¬ b.mem.pay.length < 32) ∨
    (b'.cause = 4#8 ∧ ∃ j : Half, i = .pfrd j ∧ b.mem.pkt.length ≤ j.toNat) := by
  cases h
  case rdsrReserved _ hn => exact .inl ⟨rfl, by simpa [Instr.WellFormed] using hn⟩
  case pfbuildBadType _ ht => exact .inr (.inl ⟨rfl, rfl, (legalType_eq_false _).1 ht⟩)
  case pfpushFull x _ full => exact .inr (.inr (.inl ⟨rfl, ⟨x, rfl⟩, full⟩))
  case pfrdBeyond j _ hj => exact .inr (.inr (.inr ⟨rfl, j, rfl, hj⟩))
  all_goals simp_all

/-- A step clears `FAULT` only by a hardware reset or the RESET word. -/
theorem StepEffect.reset_of_cleared {s : State} {b' : Block} (h : StepEffect s b') (hf : s.block.fault = true)
    (hf' : b'.fault = false) : s.hwReset = true ∨ s.port = .command 0x01000000#32 := by
  cases h with
  | hwReset hr => exact .inl hr
  | word _ hp he =>
    cases he with
    | command hw he =>
      obtain rfl := he.eq_reset_of_cleared hf hf'
      have hword : encode .reset = 0x01000000#32 := by decide
      exact .inr (by rw [hp, ← (decode_eq_command hw).2, hword])
    | illegal => simp at hf'
    | illegalRefused => simp [hf] at hf'
  | host => simp [hf] at hf'

/-- A step sets `FAULT` only by fault entry on the outstanding word, with the code of its cause. -/
theorem StepEffect.cause_of_set {s : State} {b' : Block} (h : StepEffect s b') (hf : s.block.fault = false)
    (hf' : b'.fault = true) :
    s.hwReset = false ∧ ∃ w, s.port = .command w ∧
      ((b'.cause = 1#8 ∧ ∃ why, decode w = .illegal why) ∨
       (b'.cause = 2#8 ∧ decode w = .command .pfbuild ∧ s.block.ptype ≠ 0x00#8 ∧ s.block.ptype ≠ 0x08#8) ∨
       (b'.cause = 3#8 ∧ (∃ x, decode w = .command (.pfpush x)) ∧ ¬ s.block.mem.pay.length < 32) ∨
       (b'.cause = 4#8 ∧ ∃ j : Half, decode w = .command (.pfrd j) ∧ s.block.mem.pkt.length ≤ j.toNat)) := by
  cases h with
  | hwReset => simp at hf'
  | @word w _ _ hr hp he =>
    refine ⟨hr, w, hp, ?_⟩
    cases he with
    | command hw he =>
      rcases he.cause_of_set hf hf' with ⟨_, hill⟩ | ⟨hc, rfl, ht⟩ | ⟨hc, ⟨x, rfl⟩, full⟩ | ⟨hc, j, rfl, hj⟩
      · simp [(decode_eq_command hw).1] at hill
      · exact .inr (.inl ⟨hc, hw, ht⟩)
      · exact .inr (.inr (.inl ⟨hc, ⟨x, hw⟩, full⟩))
      · exact .inr (.inr (.inr ⟨hc, j, hw, hj⟩))
    | illegal hw => exact .inl ⟨rfl, _, hw⟩
    | illegalRefused => simp [hf] at hf'
  | host => simp [hf] at hf'

end Sys2Proof.Machine

namespace Sys2Proof.Proofs

open Sys2Proof.Machine

/-- Settles O9: by the effects of a step; no word decodes to the ill-formed term that would raise ILLEGAL_COMMAND. -/
theorem faultSetByEntryClearedByReset : Obligations.FaultSetByEntryClearedByReset := by
  refine ⟨fun s t h => ⟨(step_effect h).reset_of_cleared, (step_effect h).cause_of_set⟩, fun i s t h => ?_⟩
  obtain ⟨b', d, he, rfl⟩ := exec_effect h
  exact ⟨he.eq_reset_of_cleared, he.cause_of_set⟩

/-- Settles O11: one effect of the word on the block is realised from both states. -/
theorem responseDependsOnBlockAndWord : Obligations.ResponseDependsOnBlockAndWord := by
  intro w s s' hs
  obtain ⟨b', d, he⟩ := wordEffect_exists w s.block
  exact ⟨_, _, runCommand_of_effect he, runCommand_of_effect (hs ▸ he), rfl, rfl⟩

/-- Settles O37: one lemma per register over the effects of a command. -/
theorem registersChangeOnlyAsTabled : Obligations.RegistersChangeOnlyAsTabled := by
  intro i s t h hr
  obtain ⟨b', d, he, rfl⟩ := exec_effect h
  exact ⟨⟨rfl, rfl⟩, he.engine_eq hr, he.ptype_eq hr, he.ident_eq hr, he.seq_eq hr,
    fun hc hp k => congrArg (·[k]?) (he.pay_eq hr hc hp), fun hi k => congrArg (·[k]?) (he.pkt_eq hr hi),
    he.cause_eq hr⟩

end Sys2Proof.Proofs

/-! # Reads and repeated setters, and a host at work on a list of commands (20_memory.md R40, R43) -/

namespace Sys2Proof.Machine

/-! ### Reads and repeated setters -/

/-- A read leaves the block as it is or raises a fault on it. -/
theorem CommandEffect.read_block {b b' : Block} {i : Instr} {d : Half} (h : CommandEffect b i b' d)
    (hi : (∃ n, i = .rdsr n) ∨ i = .csget ∨ (∃ j, i = .pfrd j)) : b' = b ∨ ∃ c : Cause, b' = b.raised c := by
  cases h
  case refused | rdsr | csget | pfrd => exact .inl rfl
  case rdsrReserved | pfrdBeyond => exact .inr ⟨_, rfl⟩
  all_goals simp at hi

@[simp] theorem Memory.buildPkt_pay (m : Memory) (T : Byte) (I S : Half) : (m.buildPkt T I S).pay = m.pay := by
  rw [Memory.buildPkt_eq]

/-- PFBUILD reads the payload buffer alone, which it leaves: a second build stores the same packet. -/
theorem Memory.buildPkt_buildPkt (m : Memory) (T : Byte) (I S : Half) :
    (m.buildPkt T I S).buildPkt T I S = m.buildPkt T I S := by
  simp only [Memory.buildPkt_eq]

/-- On the block that a setter or a successful PFBUILD left, the same command has that block and the same answer again. -/
theorem CommandEffect.repeated {b b' : Block} {i : Instr} {d : Half} (h : CommandEffect b i b' d)
    (hi : (∃ x, i = .pftype x) ∨ (∃ w, i = .pfid w) ∨ (∃ w, i = .pfseq w) ∨ i = .pfclr ∨ i = .pfbuild)
    (hf' : b'.fault = false) : CommandEffect b' i b' d := by
  cases h
  case pftype => exact .pftype hf'
  case pfid => exact .pfid hf'
  case pfseq => exact .pfseq hf'
  case pfclr => exact .pfclr hf'
  case pfbuild ht =>
    simpa only [Memory.buildPkt_buildPkt, Block.plen, Memory.buildPkt_pay] using CommandEffect.pfbuild hf' ht
  case pfbuildBadType => simp at hf'
  case refused hf _ _ => simp [hf] at hf'
  all_goals simp at hi

/-! ### One word of a list of commands, by the host and by the fold -/

/-- A host at work on its script issues a word, has its answer and takes it: the block undergoes the word's effect, and
the response is the one more observed. -/
theorem Scripted.run_send {s : State} {w : Word} {rest : List HostOp} {b : Block} {d : Half} (hs : Scripted s)
    (hscript : s.host.script = .send w :: rest) (he : WordEffect s.block w b d) :
    ∃ t, run 3 s = .next t ∧ Scripted t ∧ t.host.script = rest ∧ t.block = b ∧
      t.host.observed = s.host.observed ++ [b.responseWord d] := by
  obtain ⟨hreset, hidle, hoff⟩ := hs
  exact ⟨_, Machine.run_send s w rest b d hreset hidle hscript (fun t ht => runCommand_of_effect (ht ▸ he)) (.inl hoff),
    ⟨hreset, hidle, hoff⟩, rfl, rfl, rfl⟩

/-- The fold goes on from the answered state. -/
theorem runCommands_cons_of_effect {s : State} {w : Word} {b : Block} {d : Half} (ws : List Word)
    (he : WordEffect s.block w b d) : runCommands (w :: ws) s = runCommands ws (s.answered b d) := by
  simp only [runCommands, runCommand_of_effect he]

/-- The responses to a list are the answer to its first word and those to the rest. -/
theorem responsesTo_cons_of_effect {s : State} {w : Word} {b : Block} {d : Half} (ws : List Word)
    (he : WordEffect s.block w b d) :
    responsesTo (w :: ws) s = b.responseWord d :: responsesTo ws (s.answered b d) := by
  simp only [responsesTo, runCommand_of_effect he, State.answered_port]

/-- The host works off a list of words as the fold over it does from any state `v` with the same block: the fold never
takes its responses, so port and host of the two differ after the first word. -/
theorem Scripted.run_sends (ws : List Word) {rest : List HostOp} {s v : State} (hs : Scripted s)
    (hscript : s.host.script = ws.map .send ++ rest) (hblock : v.block = s.block) :
    ∃ t u, run (3 * ws.length) s = .next t ∧ runCommands ws v = .next u ∧ Scripted t ∧
      t.host.script = rest ∧ t.block = u.block ∧ t.host.observed = s.host.observed ++ responsesTo ws v := by
  induction ws generalizing s v with
  | nil => exact ⟨s, v, rfl, rfl, hs, hscript, hblock.symm, (List.append_nil _).symm⟩
  | cons w ws ih =>
    obtain ⟨b, d, he⟩ := wordEffect_exists w s.block
    obtain ⟨s₁, hrun, hs₁, hscript₁, hblock₁, hobs₁⟩ := hs.run_send hscript he
    have hev : WordEffect v.block w b d := hblock ▸ he
    obtain ⟨t, u, hrun', hfold, ht, hrest, htu, hobs⟩ := ih (v := v.answered b d) hs₁ hscript₁ hblock₁.symm
    refine ⟨t, u, ?_, (runCommands_cons_of_effect ws hev).trans hfold, ht, hrest, htu, ?_⟩
    · rw [List.length_cons, Nat.mul_succ, Nat.add_comm]
      exact run_trans hrun hrun'
    · rw [hobs, hobs₁, responsesTo_cons_of_effect ws hev, List.append_assoc, List.singleton_append]

end Sys2Proof.Machine

namespace Sys2Proof.Proofs

open Sys2Proof.Machine

/-- Settles O38: by the effects of a read, and because a setter's effect on the block it left is that block again, with
the same answer. -/
theorem readsChangeNothingAndSettersAreIdempotent : Obligations.ReadsChangeNothingAndSettersAreIdempotent := by
  refine ⟨fun i s t hi h => ?_, fun i s t u hi ht hf hu => ?_⟩
  · obtain ⟨b', d, he, rfl⟩ := exec_effect h
    exact he.read_block hi
  · obtain ⟨b', d, he, rfl⟩ := exec_effect ht
    have hrepeat : exec i (s.answered b' d) = .next ((s.answered b' d).answered b' d) :=
      exec_of_effect (he.repeated hi hf)
    rw [hrepeat, Host.Outcome.next.injEq] at hu
    subst hu
    exact ⟨rfl, rfl⟩

/-- Settles O41: the host's run and the fold from the same state, by induction on the list. -/
theorem scriptRunIsTheFoldOfCommands : Obligations.ScriptRunIsTheFoldOfCommands :=
  fun ws _ _ hs hscript => hs.run_sends ws hscript rfl

end Sys2Proof.Proofs

/-! # The encoding: the decoder, the encoder and the rows of the opcode table (30_encoding.md R47 to R49, R52) -/

namespace Sys2Proof.Machine

/-! ### Which operand fields the decoder takes -/

/-- The argument forms of R47 as cases: each reads back the operand that the encoder put into `arg`. -/
theorem decode_encode {i : Instr} (h : i.WellFormed = true) : decode (encode i) = .command i := by
  rw [encode, decode_commandWord]
  cases i
  case reset | csclr | csget | pfclr | pfbuild => exact (decodeN_eq_command _ _ _).2 ⟨rfl, rfl⟩
  case csbyte b | pftype b | pfpush b =>
    exact (decodeB_eq_command _ _ _).2 ⟨high_setWidth b, by rw [Instr.arg, byteOperand_setWidth]⟩
  case rdsr n => exact (decodeS_eq_command _ _ _).2 ⟨of_decide_eq_true h, rfl⟩
  case csword | pfid | pfseq | pfrd => rfl

theorem exists_decodeN_eq_command (arg : Half) (c : Instr) :
    (∃ i, decodeN arg c = .command i) ↔ ArgForm.none.legal arg = true := by
  unfold decodeN
  split <;> simp_all

theorem exists_decodeB_eq_command (arg : Half) (mk : Byte → Instr) :
    (∃ i, decodeB arg mk = .command i) ↔ ArgForm.byte.legal arg = true := by
  unfold decodeB
  split <;> simp_all

theorem exists_decodeS_eq_command (arg : Half) (mk : Half → Instr) :
    (∃ i, decodeS arg mk = .command i) ↔ ArgForm.register.legal arg = true := by
  unfold decodeS
  split <;> simp_all

theorem exists_decodeN_eq_illegal (arg : Half) (c : Instr) : (∃ why, decodeN arg c = .illegal why) ↔ arg ≠ 0#16 := by
  rw [decodeN_eq]
  split <;> simp_all

theorem exists_decodeB_eq_illegal (arg : Half) (mk : Byte → Instr) :
    (∃ why, decodeB arg mk = .illegal why) ↔ arg.extractLsb' 8 8 ≠ 0#8 := by
  rw [decodeB_eq]
  split <;> simp_all

theorem exists_decodeS_eq_illegal (arg : Half) (mk : Half → Instr) :
    (∃ why, decodeS arg mk = .illegal why) ↔ 8 ≤ arg.toNat := by
  rw [decodeS_eq]
  split <;> simp <;> omega

/-- The last four bullets of R52: a reserved opcode, or an operand field that its form does not take. The cases are the
arms of the decoder, by argument form. -/
theorem exists_decodeOp_eq_illegal (op : Byte) (arg : Half) :
    (∃ why, decodeOp op arg = .illegal why) ↔
      op ∉ [0x01#8, 0x02#8, 0x10#8, 0x11#8, 0x12#8, 0x13#8, 0x20#8, 0x21#8, 0x22#8, 0x23#8, 0x24#8, 0x25#8, 0x26#8] ∨
      (op ∈ [0x01#8, 0x10#8, 0x13#8, 0x23#8, 0x25#8] ∧ arg ≠ 0#16) ∨
      (op ∈ [0x11#8, 0x20#8, 0x24#8] ∧ arg.extractLsb' 8 8 ≠ 0#8) ∨
      (op = 0x02#8 ∧ 8 ≤ arg.toNat) := by
  unfold decodeOp
  split
  case h_1 | h_3 | h_6 | h_10 | h_12 => simp [exists_decodeN_eq_illegal]
  case h_4 | h_7 | h_11 => simp [exists_decodeB_eq_illegal]
  case h_2 => simp [exists_decodeS_eq_illegal]
  case h_5 | h_8 | h_9 | h_13 => simp
  case h_14 => simp_all

/-- An illegal word has a must-be-zero field that is not zero, or is illegal by its opcode and operand (R52). -/
theorem exists_decode_eq_illegal (w : Word) :
    (∃ why, decode w = .illegal why) ↔
      mbzField w ≠ 0#8 ∨ ∃ why, decodeOp (opField w) (argField w) = .illegal why := by
  rw [decode_eq]
  split
  case isTrue hm => exact (or_iff_right (not_not_intro hm)).symm
  case isFalse hm => exact iff_of_true ⟨_, rfl⟩ (.inl hm)

/-! ### Match and mask -/

/-- Two words are equal when their three fields are (R46). -/
theorem word_eq_iff_fields (w w' : Word) :
    w = w' ↔ mbzField w = mbzField w' ∧ opField w = opField w' ∧ argField w = argField w' := by
  refine ⟨by rintro rfl; exact ⟨rfl, rfl, rfl⟩, fun ⟨hmbz, hop, harg⟩ => ?_⟩
  rw [← fields_append w, hop, hmbz, harg, fields_append]

theorem opField_and (w m : Word) : opField (w &&& m) = opField w &&& opField m := BitVec.extractLsb'_and

theorem mbzField_and (w m : Word) : mbzField (w &&& m) = mbzField w &&& mbzField m := BitVec.extractLsb'_and

theorem argField_and (w m : Word) : argField (w &&& m) = argField w &&& argField m := BitVec.extractLsb'_and

/-- The low bits of `arg` that a form leaves to the operand; the bits above them must be zero (R47). -/
def ArgForm.operandBits : ArgForm → Nat
  | .none => 0
  | .byte => 8
  | .word | .index => 16
  | .register => 3

/-- An `arg` is legal for a form when all its bits above the operand's are zero. -/
theorem ArgForm.legal_iff_lt (form : ArgForm) (arg : Half) :
    form.legal arg = true ↔ arg.toNat < 2 ^ form.operandBits := by
  cases form
  case none =>
    rw [legal, beq_iff_eq, ← BitVec.toNat_inj]
    exact Nat.lt_one_iff.symm
  case byte =>
    have hlt := arg.isLt
    rw [legal, beq_iff_eq, ← BitVec.toNat_inj, BitVec.extractLsb'_toNat, Nat.shiftRight_eq_div_pow]
    simp only [operandBits, BitVec.toNat_ofNat]
    omega
  case word | index => exact iff_of_true rfl arg.isLt
  case register => exact decide_eq_true_iff.trans Nat.lt_succ_iff.symm

/-- A word has no bit from `k` on exactly when it is a number below `2 ^ k`. -/
theorem and_allOnes_shiftLeft_eq_zero_iff {w : Nat} (x : BitVec w) (k : Nat) :
    x &&& (BitVec.allOnes w <<< k) = 0#w ↔ x.toNat < 2 ^ k := by
  constructor
  · intro h
    refine Nat.lt_pow_two_of_testBit _ fun i hi => ?_
    have hbit := congrArg (BitVec.getLsbD · i) h
    simp only [BitVec.getLsbD_and, BitVec.getLsbD_shiftLeft, BitVec.getLsbD_allOnes, BitVec.getLsbD_zero] at hbit
    rw [BitVec.testBit_toNat]
    by_cases hw : i < w
    · simpa [hw, Nat.not_lt.2 hi, Nat.sub_lt_of_lt hw] using hbit
    · exact x.getLsbD_of_ge i (Nat.not_lt.1 hw)
  · intro h
    ext i hi
    rcases Nat.lt_or_ge i k with hik | hik
    · simp [hik]
    · have hbit : x.getLsbD i = false := Nat.testBit_lt_two_pow (h.trans_le (Nat.pow_le_pow_right Nat.two_pos hik))
      simp [← BitVec.getLsbD_eq_getElem hi, hbit]

/-- The fields of a row's match and mask values: the must-be-zero field and the opcode are compared whole, and of `arg`
the bits above the operand's. -/
theorem opcodeRow_fields : ∀ row ∈ opcodeRows,
    row.pattern = commandWord row.op 0#16 ∧ mbzField row.mask = BitVec.allOnes 8 ∧
    opField row.mask = BitVec.allOnes 8 ∧ argField row.mask = BitVec.allOnes 16 <<< row.form.operandBits := by
  decide

/-- No two rows have the same opcode. -/
theorem opcodeRow_eq_of_op_eq : ∀ row ∈ opcodeRows, ∀ row' ∈ opcodeRows, row.op = row'.op → row = row' := by
  decide

/-- A word matches a row when its must-be-zero field is zero, its opcode is the row's, and its `arg` is legal. -/
theorem matches_row_iff {row : OpcodeRow} (hrow : row ∈ opcodeRows) (w : Word) :
    w &&& row.mask = row.pattern ↔
      mbzField w = 0#8 ∧ opField w = row.op ∧ row.form.legal (argField w) = true := by
  obtain ⟨hpat, hmbz, hop, harg⟩ := opcodeRow_fields row hrow
  rw [word_eq_iff_fields, mbzField_and, opField_and, argField_and, hpat, hmbz, hop, harg, BitVec.and_allOnes,
    BitVec.and_allOnes, mbzField_commandWord, opField_commandWord, argField_commandWord,
    and_allOnes_shiftLeft_eq_zero_iff, ArgForm.legal_iff_lt]

/-- Under the opcode of a row the decoder tests the row's argument form and nothing else; the rows in the table's
order. -/
theorem exists_decodeOp_row_eq_command (arg : Half) : ∀ row ∈ opcodeRows,
    ((∃ i, decodeOp row.op arg = .command i) ↔ row.form.legal arg = true) := by
  have formN (c : Instr) := exists_decodeN_eq_command arg c
  have formB (mk : Byte → Instr) := exists_decodeB_eq_command arg mk
  have formS (mk : Half → Instr) := exists_decodeS_eq_command arg mk
  have anyArg (i : Instr) : (∃ j, Decoded.command i = .command j) ↔ true = true := iff_of_true ⟨i, rfl⟩ rfl
  simp only [opcodeRows, List.forall_mem_cons]
  exact ⟨formN .reset, formS .rdsr, formN .csclr, formB .csbyte, anyArg (.csword arg), formN .csget, formB .pftype,
    anyArg (.pfid arg), anyArg (.pfseq arg), formN .pfclr, formB .pfpush, formN .pfbuild, anyArg (.pfrd arg), nofun⟩

/-- A word decodes to a command of a given opcode when its must-be-zero field is zero, it has that opcode, and the
decoder takes its `arg` under it (R49). -/
theorem exists_decode_eq_command_opcode (w : Word) (op : Byte) :
    (∃ i, decode w = .command i ∧ i.opcode = op) ↔
      mbzField w = 0#8 ∧ opField w = op ∧ ∃ i, decodeOp op (argField w) = .command i := by
  rw [decode_eq]
  split
  case isTrue hm =>
    constructor
    · rintro ⟨i, hi, rfl⟩
      have hop := (decodeOp_eq_command hi).1
      exact ⟨hm, hop.symm, i, hop ▸ hi⟩
    · rintro ⟨-, rfl, i, hi⟩
      exact ⟨i, hi, (decodeOp_eq_command hi).1⟩
  case isFalse hm => exact iff_of_false nofun fun h => hm h.1

/-! ### The answer to a command word -/

/-- The `DATA` of a command that faulted is zero (R50, R121). -/
theorem CommandEffect.data_eq_zero_of_set {b b' : Block} {i : Instr} {d : Half} (h : CommandEffect b i b' d)
    (hf : b.fault = false) (hf' : b'.fault = true) : d = 0#16 := by
  cases h
  case rdsr | csget | pfbuild | pfrd => simp [hf] at hf'
  all_goals rfl

/-- The `DATA` of a command that was refused is zero (R50, R124). -/
theorem CommandEffect.data_eq_zero_of_faulted {b b' : Block} {i : Instr} {d : Half} (h : CommandEffect b i b' d)
    (hf : b.fault = true) (hn : ∀ n, i ≠ .rdsr n) : d = 0#16 := by
  cases h
  case rdsr n _ => exact absurd rfl (hn n)
  case csget hclear | pfbuild hclear _ | pfrd hclear _ => simp [hf] at hclear
  all_goals rfl

theorem WordEffect.data_eq_zero_of_set {b b' : Block} {w : Word} {d : Half} (h : WordEffect b w b' d)
    (hf : b.fault = false) (hf' : b'.fault = true) : d = 0#16 := by
  cases h with
  | command _ he => exact he.data_eq_zero_of_set hf hf'
  | illegal | illegalRefused => rfl

theorem WordEffect.data_eq_zero_of_faulted {b b' : Block} {w : Word} {d : Half} (h : WordEffect b w b' d)
    (hf : b.fault = true) (hn : ∀ n, decode w ≠ .command (.rdsr n)) : d = 0#16 := by
  cases h with
  | command hw he => exact he.data_eq_zero_of_faulted hf fun n hi => hn n (hi ▸ hw)
  | illegal | illegalRefused => rfl

/-- An illegal word raises ILLEGAL_COMMAND on a block that is not FAULTED (R118). -/
theorem runCommand_of_illegal_clear {w : Word} {why : Illegal} {s : State} (hw : decode w = .illegal why)
    (hf : s.block.fault = false) :
    runCommand w s =
      .next { s with block := { s.block with fault := true, cause := 1#8 }, port := .response 0x80010000#32 } := by
  rw [runCommand_of_illegal w s why hw, illegalCommand, unlessFaulted_of_clear _ _ hf, raise_next]
  rfl

/-- An illegal word is refused while FAULTED (R124). -/
theorem runCommand_of_illegal_faulted {w : Word} {why : Illegal} {s : State} (hw : decode w = .illegal why)
    (hf : s.block.fault = true) :
    runCommand w s = .next { s with port := .response (0x80#8 ++ s.block.cause ++ 0#16) } := by
  rw [runCommand_of_illegal w s why hw, illegalCommand, unlessFaulted_of_faulted _ _ hf, refuse_next _ hf]

end Sys2Proof.Machine

namespace Sys2Proof.Proofs

open Sys2Proof.Machine

/-- Settles O1: the encoder's fields are read back, form by form. -/
theorem decodeOfEncodeIsTheCommand : Obligations.DecodeOfEncodeIsTheCommand :=
  fun _ => decode_encode

/-- Settles O2: what the decoder reads has the word's opcode and operand, and the must-be-zero field is zero. -/
theorem encodeOfDecodeIsTheWord : Obligations.EncodeOfDecodeIsTheWord :=
  fun _ _ => decode_eq_command

/-- Settles O3: match and mask, and the decoder, both compare the three fields of a word with the row. -/
theorem commandsMatchTheirTableRow : Obligations.CommandsMatchTheirTableRow := by
  refine ⟨fun w row hrow => ?_, fun w row hrow row' hrow' h h' => ?_⟩
  · rw [matches_row_iff hrow, exists_decode_eq_command_opcode, exists_decodeOp_row_eq_command _ row hrow]
  · obtain ⟨-, hop, -⟩ := (matches_row_iff hrow w).1 h
    obtain ⟨-, hop', -⟩ := (matches_row_iff hrow' w).1 h'
    exact opcodeRow_eq_of_op_eq row hrow row' hrow' (hop.symm.trans hop')

/-- Settles O4: the must-be-zero field apart, the illegal words are those of the decoder's arms. -/
theorem illegalWordsAreThoseListed : Obligations.IllegalWordsAreThoseListed := by
  refine ⟨fun w => ?_, ⟨_, rfl⟩, ⟨_, rfl⟩,
    fun w why s hw => ⟨runCommand_of_illegal_clear hw, runCommand_of_illegal_faulted hw⟩⟩
  rw [exists_decode_eq_illegal, exists_decodeOp_eq_illegal]

/-- Settles O5: by evaluating the decoder on each word. -/
theorem tableWordsDecode : Obligations.TableWordsDecode := by
  unfold Obligations.TableWordsDecode
  decide

/-- Settles O10: the answer is the response word of the block that the word's effect leaves. -/
theorem everyCommandIsAnswered : Obligations.EveryCommandIsAnswered := by
  intro w s
  obtain ⟨b', d, he⟩ := wordEffect_exists w s.block
  refine ⟨s.answered b' d, b'.responseWord d, runCommand_of_effect he, rfl, rfl, rfl, respF_responseWord b' d,
    reserved_responseWord b' d, respCause_responseWord b' d, fun hf hf' => ?_, fun hf _ hn => ?_⟩
  · rw [respData_responseWord, he.data_eq_zero_of_set hf hf']
  · rw [respData_responseWord, he.data_eq_zero_of_faulted hf hn]

end Sys2Proof.Proofs

/-! # READPACKET, and what the assembler makes of a line (30_encoding.md R61, R62) -/

namespace Sys2Proof.Machine

/-! ### Reading the packet out -/

/-- The word of a well-formed command has the command's effect. -/
theorem runCommand_encode_of_effect {s : State} {i : Instr} {b : Block} {d : Half} (hi : i.WellFormed = true)
    (he : CommandEffect s.block i b d) : runCommand (encode i) s = .next (s.answered b d) :=
  runCommand_of_effect (.command (decode_encode hi) he)

/-- The host issues `PFRD j` for a byte of the packet, has the answer and keeps the byte. -/
theorem Scripted.run_fetch {s : State} {j : Half} {x : Byte} {rest : List HostOp} (hs : Scripted s)
    (hf : s.block.fault = false) (hscript : s.host.script = .fetch j :: rest)
    (hx : s.block.mem.read (.pkt j.toNat) = some x) :
    ∃ t, run 3 s = .next t ∧ Scripted t ∧ t.host.script = rest ∧ t.host.bytes = s.host.bytes ++ [x] ∧
      t.block = s.block := by
  obtain ⟨hreset, hidle, hoff⟩ := hs
  have he : CommandEffect s.block (.pfrd j) s.block (x.setWidth 16) := .pfrd hf hx
  refine ⟨_, Machine.run_fetch s j rest s.block (x.setWidth 16) hreset hidle hscript
    (fun t ht => runCommand_encode_of_effect rfl (ht ▸ he)) (.inl hoff), ⟨hreset, hidle, hoff⟩, rfl, ?_, rfl⟩
  exact congrArg (s.host.bytes ++ [·]) (byteOperand_setWidth x)

/-- A list of fetches collects the bytes at its offsets, in order. -/
theorem Scripted.run_fetches (js : List Half) {xs : List Byte} {s : State} {rest : List HostOp} (hs : Scripted s)
    (hf : s.block.fault = false) (hscript : s.host.script = js.map .fetch ++ rest)
    (hxs : js.map (fun j => s.block.mem.read (.pkt j.toNat)) = xs.map some) :
    ∃ t, run (3 * js.length) s = .next t ∧ Scripted t ∧ t.host.script = rest ∧
      t.host.bytes = s.host.bytes ++ xs ∧ t.block = s.block := by
  induction js generalizing s xs with
  | nil =>
    obtain rfl : xs = [] := List.map_eq_nil_iff.1 hxs.symm
    exact ⟨s, rfl, hs, hscript, (List.append_nil _).symm, rfl⟩
  | cons j js ih =>
    obtain _ | ⟨x, xs⟩ := xs
    · cases hxs
    obtain ⟨hx, hxs⟩ := List.cons_eq_cons.1 hxs
    obtain ⟨s₁, hrun, hs₁, hscript₁, hbytes₁, hblock₁⟩ := hs.run_fetch hf hscript hx
    obtain ⟨t, hrun', ht, hrest, hbytes, hblock⟩ := ih hs₁ (hblock₁ ▸ hf) hscript₁ (hblock₁ ▸ hxs)
    refine ⟨t, ?_, ht, hrest, ?_, hblock.trans hblock₁⟩
    · rw [List.length_cons, Nat.mul_succ, Nat.add_comm]
      exact run_trans hrun hrun'
    · rw [hbytes, hbytes₁, List.append_assoc, List.singleton_append]

theorem fetches_eq (n : Nat) : fetches n = ((List.range n).map (BitVec.ofNat 16)).map .fetch := by
  rw [List.map_map]; rfl

/-- The offsets `0` to `PKTLEN - 1` read the packet byte for byte. -/
theorem Memory.read_pkt_range {m : Memory} (h : m.pkt.length ≤ 0x10000) :
    ((List.range m.pkt.length).map (BitVec.ofNat 16)).map (fun j => m.read (.pkt j.toNat)) = m.pkt.map some := by
  refine List.ext_getElem (by simp) fun k hk _ => ?_
  have hk : k < m.pkt.length := by simpa using hk
  simp [Memory.read, Nat.mod_eq_of_lt (hk.trans_le h), hk]

/-- The host begins reading out: its script now fetches as many bytes as the last response says. -/
theorem Scripted.run_readOut {s : State} {rest : List HostOp} (hs : Scripted s)
    (hscript : s.host.script = .readOut :: rest) :
    ∃ t, run 1 s = .next t ∧ Scripted t ∧ t.host.script = fetches (respData s.host.last).toNat ++ rest ∧
      t.host.bytes = [] ∧ t.block = s.block := by
  obtain ⟨hreset, hidle, hoff⟩ := hs
  exact ⟨_, Machine.run_readOut s rest hreset hidle hscript, ⟨hreset, hidle, hoff⟩, rfl, rfl, rfl⟩

/-- The host sends `RDSR 7` and takes `PKTLEN` as the `DATA` of the last response. -/
theorem Scripted.run_rdsr_pktlen {s : State} {rest : List HostOp} (hs : Scripted s)
    (hscript : s.host.script = sendInstr (.rdsr 7#16) :: rest) :
    ∃ t, run 3 s = .next t ∧ Scripted t ∧ t.host.script = rest ∧
      respData t.host.last = BitVec.ofNat 16 s.block.pktlen ∧ t.block = s.block := by
  obtain ⟨hreset, hidle, hoff⟩ := hs
  have he : CommandEffect s.block (.rdsr 7#16) s.block (BitVec.ofNat 16 s.block.pktlen) := .rdsr rfl
  have ha : ∀ t : State, t.block = s.block → runCommand (encode (.rdsr 7#16)) t =
      .next (t.answered s.block (BitVec.ofNat 16 s.block.pktlen)) :=
    fun t ht => runCommand_encode_of_effect rfl (ht.symm ▸ he)
  exact ⟨_, Machine.run_send s _ rest s.block _ hreset hidle hscript ha (.inl hoff), ⟨hreset, hidle, hoff⟩, rfl,
    respData_responseWord _ _, rfl⟩

/-- READPACKET: `RDSR 7`, the move that begins reading out, and one fetch for each byte of the packet. -/
theorem Scripted.run_readPacket {s : State} {rest : List HostOp} (hs : Scripted s) (hf : s.block.fault = false)
    (hlen : s.block.mem.pkt.length < 0x10000) (hscript : s.host.script = readPacketProc ++ rest) :
    ∃ t, run (4 + 3 * s.block.mem.pkt.length) s = .next t ∧ Scripted t ∧ t.host.script = rest ∧
      t.host.bytes = s.block.mem.pkt ∧ t.block = s.block := by
  obtain ⟨s₁, hrdsr, hs₁, hscript₁, hlast, hblock₁⟩ := hs.run_rdsr_pktlen hscript
  obtain ⟨s₂, hreadOut, hs₂, hscript₂, hbytes₂, hblock₂⟩ := hs₁.run_readOut hscript₁
  have hblock₂ : s₂.block = s.block := hblock₂.trans hblock₁
  have hn : (respData s₁.host.last).toNat = s.block.mem.pkt.length := by
    rw [hlast, BitVec.toNat_ofNat]
    exact Nat.mod_eq_of_lt hlen
  rw [hn, fetches_eq] at hscript₂
  obtain ⟨t, hrun, ht, hrest, hbytes, hblock⟩ :=
    hs₂.run_fetches _ (hblock₂ ▸ hf) hscript₂ (by rw [hblock₂]; exact Memory.read_pkt_range hlen.le)
  refine ⟨t, ?_, ht, hrest, by rw [hbytes, hbytes₂, List.nil_append], hblock.trans hblock₂⟩
  simp only [List.length_map, List.length_range] at hrun
  exact run_trans (run_trans hrdsr hreadOut) hrun

/-! ### What the assembler makes of a line -/

/-- The operation issues no illegal word. -/
def HostOp.Legal : HostOp → Prop
  | .send w => ∃ i : Instr, i.WellFormed = true ∧ encode i = w
  | .fetch _ | .readOut => True

/-- To issue well-formed commands is to issue no illegal word. -/
theorem legal_map_sendInstr {is : List Instr} (h : ∀ i ∈ is, i.WellFormed = true) :
    ∀ op ∈ is.map sendInstr, op.Legal := by
  intro op hop
  obtain ⟨i, hi, rfl⟩ := List.mem_map.1 hop
  exact ⟨i, h i hi, rfl⟩

theorem pfload_wellFormed (bytes : List Byte) : ∀ i ∈ pfload bytes, i.WellFormed = true := by
  simp only [pfload, List.forall_mem_append, List.forall_mem_map, List.forall_mem_singleton]
  exact ⟨rfl, fun _ _ => rfl⟩

theorem checksumProc_wellFormed (bytes : List Byte) : ∀ i ∈ checksumProc bytes, i.WellFormed = true := by
  simp only [checksumProc, List.forall_mem_append, List.forall_mem_map, List.forall_mem_singleton]
  exact ⟨⟨rfl, fun _ _ => rfl⟩, rfl⟩

theorem buildPacketProc_wellFormed (t : Byte) (id seq : Half) (bytes : List Byte) :
    ∀ i ∈ buildPacketProc t id seq bytes, i.WellFormed = true := by
  simp only [buildPacketProc, List.forall_mem_append, List.forall_mem_cons]
  exact ⟨⟨⟨rfl, rfl, rfl, nofun⟩, pfload_wellFormed bytes⟩, rfl, nofun⟩

theorem readPacketProc_legal : ∀ op ∈ readPacketProc, op.Legal :=
  List.forall_mem_cons.2 ⟨⟨.rdsr 7#16, rfl, rfl⟩, List.forall_mem_singleton.2 trivial⟩

/-- An operand that fits the form of a command makes a well-formed command of it (R61): only RDSR can be ill formed, and
its form's largest operand is 7. -/
theorem mnemonic_wellFormed (v : Nat) : ∀ row ∈ mnemonics,
    v ≤ row.2.1.largest → (row.2.2 (BitVec.ofNat 16 v)).WellFormed = true := by
  have rdsr (hv : v ≤ 7) : (Instr.rdsr (BitVec.ofNat 16 v)).WellFormed = true :=
    decide_eq_true ((Nat.mod_le v _).trans hv)
  have other {n : Nat} (_ : v ≤ n) : true = true := rfl
  simp only [mnemonics, List.forall_mem_cons]
  exact ⟨other, rdsr, other, other, other, other, other, other, other, other, other, other, other, nofun⟩

/-- What the assembler makes of one command line is well formed: it takes an operand only when it fits the form. -/
theorem assembleCommand_wellFormed {mnemonic : List Char} {operands : List Nat} {i : Instr}
    (h : assembleCommand mnemonic operands = .ok i) : i.WellFormed = true := by
  unfold assembleCommand at h
  split at h
  case h_1 => cases h
  case h_2 row form mk hfind =>
    have hrow := List.mem_of_find?_eq_some hfind
    split at h
    case h_1 => cases h; exact mnemonic_wellFormed 0 _ hrow le_rfl
    case h_2 => cases h
    case h_3 =>
      split at h
      case isTrue hv => cases h; exact mnemonic_wellFormed _ _ hrow hv
      case isFalse => cases h
    case h_4 => cases h

/-- A rejecting test passed: the result is the one behind the test. -/
theorem eq_of_guard_eq_ok {c : Prop} [Decidable c] {e : AsmError} {ops ops' : List HostOp}
    (h : (if c then Except.ok ops else Except.error e) = Except.ok ops') : ops = ops' := by
  split at h <;> cases h
  rfl

/-- A command or a pseudo-command other than `.word` issues the words of well-formed commands alone; the cases are the
mnemonics in the assembler's order. -/
theorem assembleWith_legal {mnemonic : List Char} {operands : List Nat} {ops : List HostOp}
    (h : assembleWith mnemonic operands = .ok ops) (hword : mnemonic ≠ ".word".toList) : ∀ op ∈ ops, op.Legal := by
  unfold assembleWith at h
  rw [if_neg hword] at h
  split at h -- CHECKSUM
  · obtain rfl := eq_of_guard_eq_ok h
    exact legal_map_sendInstr (checksumProc_wellFormed _)
  split at h -- PFLOAD
  · obtain rfl := eq_of_guard_eq_ok h
    exact legal_map_sendInstr (pfload_wellFormed _)
  split at h -- BUILDPACKET
  · split at h
    case h_1 =>
      obtain rfl := eq_of_guard_eq_ok h
      exact legal_map_sendInstr (buildPacketProc_wellFormed _ _ _ _)
    case h_2 => cases h
  split at h -- READPACKET
  · obtain rfl := eq_of_guard_eq_ok h
    exact readPacketProc_legal
  split at h -- a command of R48
  case h_1 i hi =>
    cases h
    exact List.forall_mem_singleton.2 ⟨i, assembleCommand_wellFormed hi, rfl⟩
  case h_2 => cases h

/-- A line whose first piece is not `.word` is blank or one of those. -/
theorem assembleLine_legal {line : List Char} {ops : List HostOp} (h : assembleLine line = .ok ops)
    (hword : (pieces ' ' (line.takeWhile (· ≠ ';'))).head? ≠ some ".word".toList) : ∀ op ∈ ops, op.Legal := by
  unfold assembleLine at h
  split at h
  case h_1 => cases h; nofun
  case h_2 mnemonic rest hpieces =>
    rw [hpieces, List.head?_cons, ne_eq, Option.some_inj] at hword
    dsimp only at h
    generalize parseNumbers _ = numbers at h
    cases numbers with
    | some vs => exact assembleWith_legal h hword
    | none => cases h

end Sys2Proof.Machine

namespace Sys2Proof.Proofs

open Sys2Proof.Machine

/-- Settles O42: `PKTLEN` is at most 40, so `RDSR 7` answers it whole and each of the fetches reads its own byte. -/
theorem readPacketReadsThePacketOut : Obligations.ReadPacketReadsThePacketOut := by
  intro s rest hs hf hwf hscript
  have hlen : s.block.mem.pkt.length < 0x10000 := by
    have := (Memory.wf_iff _).1 hwf
    omega
  exact hs.run_readPacket hf hlen hscript

/-- Settles O43: a line that is not a `.word` line makes words of well-formed commands alone. -/
theorem assemblerProducesNoIllegalWord : Obligations.AssemblerProducesNoIllegalWord := by
  intro line ops h hword w hw
  obtain ⟨i, hi, rfl⟩ := assembleLine_legal h hword _ hw
  exact ⟨i, decode_encode hi⟩

end Sys2Proof.Proofs

/-! # The checksum functions and the engine's commands (00_scope.md section 6.3, 40_checksum_engine.md) -/

namespace Sys2Proof.Machine

/-! ### The folded sum -/

/-- The fold of a non-zero value is the one number from 1 to 0xFFFF in its residue class (R66 (b)). -/
theorem fold16_eq_iff_of_pos {s : Nat} (r : Nat) (hs : 0 < s) :
    fold16 s = r ↔ 1 ≤ r ∧ r ≤ 0xFFFF ∧ r % 0xFFFF = s % 0xFFFF := by
  rw [fold16_eq, if_neg hs.ne']
  omega

/-- A value of 16 bits folds to itself. -/
theorem fold16_of_le {s : Nat} (h : s ≤ 0xFFFF) : fold16 s = s := foldLoop_of_le s s h

/-- The fold is 0xFFFF exactly for the non-zero multiples of 0xFFFF. -/
theorem fold16_eq_max (s : Nat) : fold16 s = 0xFFFF ↔ s ≠ 0 ∧ s % 0xFFFF = 0 := by
  rw [fold16_eq]
  split <;> omega

/-- The complement of a folded sum completes the sum to a non-zero multiple of 0xFFFF. -/
theorem fold16_add_complement (s : Nat) : fold16 (s + (0xFFFF - fold16 s)) = 0xFFFF := by
  rw [fold16_eq_max, fold16_eq]
  split <;> omega

/-- The running sum of words with end-around carry is the folded sum, from any folded value on (R66 (d)). -/
theorem foldl_onesAdd16 (ws : List Half) (x : Nat) :
    ws.foldl onesAdd16 (BitVec.ofNat 16 (fold16 x)) = BitVec.ofNat 16 (fold16 (x + (ws.map BitVec.toNat).sum)) := by
  induction ws generalizing x with
  | nil => rfl
  | cons w ws ih =>
    rw [List.foldl_cons, onesAdd16_ofNat_fold16, ih, List.map_cons, List.sum_cons, Nat.add_assoc]

/-- The same from the accumulator's clear value on. -/
theorem foldl_onesAdd16_zero_toNat (ws : List Half) :
    (ws.foldl onesAdd16 0#16).toNat = fold16 (ws.map BitVec.toNat).sum := by
  have h := congrArg BitVec.toNat (foldl_onesAdd16 ws 0)
  rwa [ofNat_fold16_toNat, Nat.zero_add] at h

/-! ### The laws of the add with end-around carry (R71) -/

theorem onesAdd16_comm (a b : Half) : onesAdd16 a b = onesAdd16 b a := by
  apply BitVec.eq_of_toNat_eq
  rw [onesAdd16_toNat_eq_fold16, onesAdd16_toNat_eq_fold16, Nat.add_comm]

theorem onesAdd16_assoc (a b c : Half) : onesAdd16 (onesAdd16 a b) c = onesAdd16 a (onesAdd16 b c) := by
  apply BitVec.eq_of_toNat_eq
  calc (onesAdd16 (onesAdd16 a b) c).toNat
      = fold16 (a.toNat + b.toNat + c.toNat) := by
        rw [onesAdd16_toNat_eq_fold16, onesAdd16_toNat_eq_fold16, fold16_fold16_add]
    _ = fold16 (b.toNat + c.toNat + a.toNat) := by congr 1; omega
    _ = (onesAdd16 a (onesAdd16 b c)).toNat := by
        rw [onesAdd16_comm a, onesAdd16_toNat_eq_fold16, onesAdd16_toNat_eq_fold16, fold16_fold16_add]

theorem onesAdd16_zero (a : Half) : onesAdd16 a 0#16 = a := by
  apply BitVec.eq_of_toNat_eq
  have ha := a.isLt
  rw [onesAdd16_toNat_eq_fold16, BitVec.toNat_zero, Nat.add_zero, fold16_of_le (by omega)]

/-- 0xFFFF is a second zero on the values other than 0. -/
theorem onesAdd16_max_of_ne_zero {a : Half} (h : a ≠ 0#16) : onesAdd16 a 0xFFFF#16 = a := by
  have ha := a.isLt
  have hpos : 0 < a.toNat := Nat.pos_of_ne_zero fun e => h (BitVec.eq_of_toNat_eq e)
  apply BitVec.eq_of_toNat_eq
  rw [onesAdd16_toNat_eq_fold16, fold16_eq_iff_of_pos _ (by omega)]
  simp only [BitVec.toNat_ofNat]
  omega

theorem onesAdd16_not16 (a : Half) : onesAdd16 a (not16 a) = 0xFFFF#16 := by
  have ha := a.isLt
  have hsum : a.toNat + (not16 a).toNat = 0xFFFF := by rw [not16_toNat]; omega
  apply BitVec.eq_of_toNat_eq
  rw [onesAdd16_toNat_eq_fold16, hsum, fold16_of_le le_rfl]
  rfl

/-- The order of the words does not change their sum. -/
theorem foldl_onesAdd16_perm {ws ws' : List Half} (h : ws.Perm ws') :
    ws.foldl onesAdd16 0#16 = ws'.foldl onesAdd16 0#16 := by
  apply BitVec.eq_of_toNat_eq
  rw [foldl_onesAdd16_zero_toNat, foldl_onesAdd16_zero_toNat, (h.map BitVec.toNat).sum_eq]

/-! ### The checksum of a buffer -/

theorem computeChecksum_toNat (B : List Byte) : (computeChecksum B).toNat = 0xFFFF - fold16 (wsum B) := by
  rw [computeChecksum, not16_toNat, ofNat_fold16_toNat]

/-- The checksum is 0xFFFF exactly for an all-zero buffer (R65). -/
theorem computeChecksum_eq_max (B : List Byte) : computeChecksum B = 0xFFFF#16 ↔ ∀ b ∈ B, b = 0#8 := by
  have hle := fold16_le (wsum B)
  rw [← wsum_eq_zero, ← fold16_eq_zero, BitVec.toNat_eq, computeChecksum_toNat, BitVec.toNat_ofNat]
  omega

/-- The checksum is 0x0000 exactly where the folded sum is 0xFFFF. -/
theorem computeChecksum_eq_zero_iff_fold (B : List Byte) :
    computeChecksum B = 0x0000#16 ↔ fold16 (wsum B) = 0xFFFF := by
  have hle := fold16_le (wsum B)
  rw [BitVec.toNat_eq, computeChecksum_toNat, BitVec.toNat_ofNat]
  omega

/-- The pad byte of an odd-length buffer counts as a zero byte at its end (R64 (b)). -/
theorem wsum_append_zero_of_odd {B : List Byte} (h : B.length % 2 = 1) : wsum (B ++ [0#8]) = wsum B := by
  have heven : (B ++ [0#8]).length % 2 = 0 := by rw [List.length_append, List.length_singleton]; omega
  rw [wsum, wsum, padEven_of_even _ heven, padEven_of_odd _ h]

/-- A buffer taken apart at two neighbouring bytes. -/
theorem exists_eq_append_of_getElem? {B : List Byte} {j : Nat} {x y : Byte} (hx : B[j]? = some x)
    (hy : B[j + 1]? = some y) : ∃ P R, B = P ++ x :: y :: R ∧ P.length = j := by
  obtain ⟨hj, rfl⟩ := List.getElem?_eq_some_iff.1 hx
  obtain ⟨hj', rfl⟩ := List.getElem?_eq_some_iff.1 hy
  refine ⟨B.take j, B.drop (j + 2), ?_, List.length_take_of_le hj.le⟩
  rw [← List.drop_eq_getElem_cons, ← List.drop_eq_getElem_cons, List.take_append_drop]

/-- A 16-bit value written over two zero bytes at an even offset is added to the word sum. -/
theorem wsum_set_word {B : List Byte} {j : Nat} (w : Half) (heven : j % 2 = 0) (hhi : B[j]? = some 0#8)
    (hlo : B[j + 1]? = some 0#8) : wsum ((B.set j (hi8 w)).set (j + 1) (lo8 w)) = wsum B + w.toNat := by
  obtain ⟨P, R, rfl, rfl⟩ := exists_eq_append_of_getElem? hhi hlo
  have hset : ((P ++ 0#8 :: 0#8 :: R).set P.length (hi8 w)).set (P.length + 1) (lo8 w) = P ++ hi8 w :: lo8 w :: R := by
    simp
  rw [hset, wsum_append _ heven, wsum_append _ heven, wsum_cons_cons, wsum_cons_cons, word_hi8_lo8,
    (word_toNat_eq_zero _ _).2 ⟨rfl, rfl⟩]
  omega

/-! ### The engine's commands on a block that is not FAULTED -/

/-- The operand of a command word is added to its opcode's word. -/
theorem commandWord_eq_add (op : Byte) (arg : Half) : commandWord op arg = commandWord op 0#16 + arg.setWidth 32 := by
  apply BitVec.eq_of_toNat_eq
  have hop := op.isLt
  have harg := arg.isLt
  simp only [BitVec.toNat_add, commandWord_toNat, BitVec.toNat_setWidth, BitVec.toNat_zero]
  omega

/-- The same for a byte operand. -/
theorem commandWord_byte_eq_add (op b : Byte) :
    commandWord op (b.setWidth 16) = commandWord op 0#16 + b.setWidth 32 := by
  rw [commandWord_eq_add, BitVec.setWidth_setWidth (by decide)]

/-- The whole next state of a command that does not fault and answers `DATA = d`. -/
theorem exec_of_effect_clear {s : State} {i : Instr} {b : Block} {d : Half} (h : CommandEffect s.block i b d)
    (hf : b.fault = false) : exec i s = .next { s with block := b, port := .response (0#16 ++ d) } :=
  (exec_of_effect h).trans (respond_next s b d hf)

/-- The same with `DATA = 0`. -/
theorem exec_of_effect_clear_zero {s : State} {i : Instr} {b : Block} (h : CommandEffect s.block i b 0#16)
    (hf : b.fault = false) : exec i s = .next { s with block := b, port := .response 0x00000000#32 } :=
  (exec_of_effect h).trans (respond_next_zero s b hf)

theorem execAll_cons_of_next {s t : State} {i : Instr} (is : List Instr) (h : exec i s = .next t) :
    execAll (i :: is) s = execAll is t := by
  simp [execAll, h]

theorem execAll_single (i : Instr) (s : State) : execAll [i] s = exec i s := by
  obtain ⟨b, d, h⟩ := exec_answers i s
  rw [execAll_cons_of_next _ h, h]
  rfl

theorem Block.csSum_of_half {b : Block} (h : b.half = true) : b.csSum = onesAdd16 b.acc (word b.hold 0#8) := by
  simp [Block.csSum, h]

theorem Block.csSum_of_not_half {b : Block} (h : b.half = false) : b.csSum = b.acc := by
  simp [Block.csSum, h]

/-- CSGET's sum is the folded word sum of all absorbed bytes, a pending byte padded with a zero byte (R70). -/
theorem EngineHolds.csSum {A : List Byte} {b : Block} (h : EngineHolds A b) :
    b.csSum = BitVec.ofNat 16 (fold16 (wsum A)) := by
  cases hb : b.half with
  | true =>
    have hA := h.half_eq_true hb
    obtain ⟨hsplit, heven⟩ := evenPrefix_append_getLastD hA
    have hsum : wsum A = wsum (evenPrefix A) + (word b.hold 0#8).toNat := by
      conv_lhs => rw [← hsplit]
      rw [wsum_append _ heven, wsum_single, h.hold, if_pos hA]
    rw [Block.csSum_of_half hb, h.acc, onesAdd16_ofNat_fold16, hsum]
  | false => rw [Block.csSum_of_not_half hb, h.acc, evenPrefix_of_even (h.half_eq_false hb)]

/-- CSGET's `DATA` is the checksum of the absorbed bytes (R70). -/
theorem EngineHolds.not16_csSum {A : List Byte} {b : Block} (h : EngineHolds A b) :
    not16 b.csSum = computeChecksum A := by
  rw [h.csSum, computeChecksum]

/-- What CSBYTE leaves unchanged, any number of them leaves unchanged. -/
theorem foldl_csByte_frame {α : Type} (f : Block → α) (hf : ∀ b x, f (b.csByte x) = f b) (B : List Byte)
    (b : Block) : f (B.foldl Block.csByte b) = f b := by
  induction B generalizing b with
  | nil => rfl
  | cons x B ih => exact (ih _).trans (hf b x)

/-- One CSBYTE per byte and then CSGET: the block has absorbed the bytes and answers the checksum of all absorbed. -/
theorem execAll_csbytes_csget (B : List Byte) {A : List Byte} {s : State} (hf : s.block.fault = false)
    (hA : EngineHolds A s.block) :
    execAll (B.map .csbyte ++ [.csget]) s =
      .next (s.answered (B.foldl Block.csByte s.block) (computeChecksum (A ++ B))) := by
  induction B generalizing A s with
  | nil =>
    rw [List.map_nil, List.nil_append, execAll_single, exec_of_effect (.csget hf), hA.not16_csSum, List.append_nil,
      List.foldl_nil]
  | cons x B ih =>
    have hx : exec (.csbyte x) s = .next (s.answered (s.block.csByte x) 0#16) := exec_of_effect (.csbyte hf)
    have hrest := ih (s := s.answered (s.block.csByte x) 0#16) (by simpa using hf) (hA.csByte x)
    rw [List.map_cons, List.cons_append, execAll_cons_of_next _ hx, hrest, List.append_assoc]
    rfl

/-- CHECKSUM (R62, R73) from any state that is not FAULTED, whole. -/
theorem execAll_checksumProc {s : State} (B : List Byte) (hf : s.block.fault = false) :
    execAll (checksumProc B) s = .next (s.answered (B.foldl Block.csByte s.block.csClear) (computeChecksum B)) := by
  have hclr : exec .csclr s = .next (s.answered s.block.csClear 0#16) := exec_of_effect (.csclr hf)
  have hA : EngineHolds [] s.block.csClear := (engineHolds_nil_iff _).2 ⟨rfl, rfl, rfl⟩
  rw [checksumProc, List.append_assoc, List.singleton_append, execAll_cons_of_next _ hclr,
    execAll_csbytes_csget B (s := s.answered s.block.csClear 0#16) hf hA]
  rfl

end Sys2Proof.Machine

namespace Sys2Proof.Proofs

open Sys2Proof.Machine

/-- Settles O16: by the fold in closed form, and induction on the words for the running sum. -/
theorem runningSumIsTheFoldedSum : Obligations.RunningSumIsTheFoldedSum :=
  ⟨rfl, fun _ r hs => fold16_eq_iff_of_pos r hs, onesAdd16_toNat_eq_fold16, fun x w => fold16_fold16_add x w.toNat,
    foldl_onesAdd16_zero_toNat⟩

/-- Settles O17: each law is one of the folded sum; the last by the sum's not depending on the order. -/
theorem onesAddLaws : Obligations.OnesAddLaws :=
  ⟨onesAdd16_comm, onesAdd16_assoc, onesAdd16_zero, fun _ => onesAdd16_max_of_ne_zero, by decide, onesAdd16_not16,
    fun a b => (onesAdd16_eq_zero a b).1, fun _ _ => foldl_onesAdd16_perm⟩

/-- Settles O18: the two buffers have the same word sum. -/
theorem oddBufferChecksumIsThatOfThePadded : Obligations.OddBufferChecksumIsThatOfThePadded := by
  intro B hodd
  rw [computeChecksum, computeChecksum, wsum_append_zero_of_odd hodd]

/-- Settles O19: the folded sum is 0 only of an all-zero buffer, and 0xFFFF only of a non-zero multiple of 0xFFFF. -/
theorem extremeChecksumValues : Obligations.ExtremeChecksumValues :=
  fun B => ⟨computeChecksum_eq_max B, (computeChecksum_eq_zero_iff_fold B).trans (fold16_eq_max _)⟩

/-- Settles O20: writing the checksum adds the complement of the folded sum to the word sum. -/
theorem checksummedBufferValidates : Obligations.ChecksummedBufferValidates := by
  intro B j heven _ hhi hlo
  rw [computeChecksum_eq_zero_iff_fold, wsum_set_word _ heven hhi hlo, computeChecksum_toNat, fold16_add_complement]

/-- Settles O21: by CSCLR's effect. -/
theorem csclrClearsTheEngine : Obligations.CsclrClearsTheEngine := by
  refine ⟨by decide, fun s hf => exec_of_effect_clear_zero (.csclr hf) hf, fun s t hf h => ?_⟩
  rw [exec_of_effect (.csclr hf)] at h
  cases h
  exact (engineHolds_nil_iff _).2 ⟨rfl, rfl, rfl⟩

/-- Settles O22: by CSBYTE's effect at either phase, and what it makes of the absorbed bytes. -/
theorem csbyteAbsorbsOneByte : Obligations.CsbyteAbsorbsOneByte := by
  have hexec {s : State} (b : Byte) (hf : s.block.fault = false) :=
    exec_of_effect_clear_zero (.csbyte (x := b) hf) (by simpa using hf)
  refine ⟨fun b => commandWord_byte_eq_add 0x11#8 b, fun s b hf hh => ?_, fun s b hf hh => ?_,
    fun s t b A hf hA h => ?_⟩
  · rw [hexec b hf, Block.csByte_of_not_half b hh]
  · rw [hexec b hf, Block.csByte_of_half b hh]
    rfl
  · rw [hexec b hf] at h
    cases h
    exact hA.csByte b

/-- Settles O23: by CSWORD's effect at either phase; the two CSBYTEs leave the same block. -/
theorem cswordAbsorbsTwoBytes : Obligations.CswordAbsorbsTwoBytes := by
  have hexec {s : State} (w : Half) (hf : s.block.fault = false) :=
    exec_of_effect_clear_zero (.csword (w := w) hf) (by simpa using hf)
  refine ⟨fun w => commandWord_eq_add 0x12#8 w, fun s w hf hh => ?_, fun s w hf hh => ?_, fun s w hf hhold => ?_⟩
  · rw [hexec w hf, Block.csWord_of_not_half w hh]
  · rw [hexec w hf, Block.csWord_of_half w hh]
    rfl
  · have hhi : exec (.csbyte (hi8 w)) s = .next (s.answered (s.block.csByte (hi8 w)) 0#16) :=
      exec_of_effect (.csbyte hf)
    have hf' : (s.answered (s.block.csByte (hi8 w)) 0#16).block.fault = false := by simpa using hf
    rw [execAll_cons_of_next _ hhi, execAll_single, exec_of_effect (.csbyte hf'), exec_of_effect (.csword hf),
      Block.csWord_eq_csByte_csByte w hhold]
    rfl

/-- Settles O24: by CSGET's effect at either phase, and its sum as the folded word sum of the absorbed bytes. -/
theorem csgetAnswersTheChecksum : Obligations.CsgetAnswersTheChecksum := by
  have hexec {s : State} (hf : s.block.fault = false) := exec_of_effect_clear (.csget hf) hf
  refine ⟨by decide, fun s hf hh => ?_, fun s hf hh => ?_, fun s A hf hA => ?_⟩
  · rw [hexec hf, Block.csSum_of_not_half hh]
    rfl
  · rw [hexec hf, Block.csSum_of_half hh]
    rfl
  · rw [hexec hf, hA.not16_csSum]

/-- Settles O26: the procedure's whole result, by induction on the bytes; no CSBYTE changes the framer's registers. -/
theorem checksumProcedureComputesTheFunction : Obligations.ChecksumProcedureComputesTheFunction := by
  intro s B hf
  have hfault : (B.foldl Block.csByte s.block.csClear).fault = false :=
    (foldl_csByte_frame Block.fault Block.csByte_fault B _).trans hf
  refine ⟨_, execAll_checksumProc B hf, ?_, hfault, foldl_csByte_frame Block.mem Block.csByte_mem B _,
    foldl_csByte_frame Block.ptype Block.csByte_ptype B _, foldl_csByte_frame Block.ident Block.csByte_ident B _,
    foldl_csByte_frame Block.seq Block.csByte_seq B _⟩
  rw [State.answered_port, Block.responseWord_clear _ _ hfault]

end Sys2Proof.Proofs

/-! # The packet function and the framer's commands (41_packet_framer.md) -/

namespace Sys2Proof.Machine

/-! ### A built packet (R88) -/

theorem legalType_eq_true (T : Byte) : legalType T = true ↔ T = 0x00#8 ∨ T = 0x08#8 := by
  rw [← Bool.not_eq_false, legalType_eq_false]
  tauto

/-- Inversion of the function: it has a result exactly under the preconditions of R78 and R79, and then it is the packet
of R77. -/
theorem buildPacket_eq_some {P K : List Byte} {T : Byte} {I S : Half} :
    buildPacket P T I S = some K ↔ legalType T = true ∧ P.length ≤ 32 ∧ packetBytes P T I S = K := by
  rw [buildPacket, Option.ite_none_right_eq_some, Bool.and_eq_true, decide_eq_true_eq, Option.some.injEq, and_assoc]
  rfl

theorem buildPacket_of_illegal {T : Byte} (P : List Byte) (I S : Half) (hT : legalType T = false) :
    buildPacket P T I S = none := by
  simp [buildPacket, hT]

/-- The packet byte by byte, with `C` in its checksum field (R53). -/
theorem packetWith_eq (P : List Byte) (T : Byte) (C I S : Half) :
    packetWith P T C I S = T :: 0x00#8 :: hi8 C :: lo8 C :: hi8 I :: lo8 I :: hi8 S :: lo8 S :: P := rfl

/-- Zeroing the checksum field of a packet gives `Z` of R77. -/
theorem packetWith_zero_checksum (P : List Byte) (T : Byte) (C I S : Half) :
    ((packetWith P T C I S).set 2 0#8).set 3 0#8 = zeroedPacket P T I S := rfl

/-- Splicing a checksum into `Z` gives the packet with that checksum. -/
theorem zeroedPacket_set_checksum (P : List Byte) (T : Byte) (C I S : Half) :
    ((zeroedPacket P T I S).set 2 (hi8 C)).set 3 (lo8 C) = packetWith P T C I S := rfl

/-- The packet's own checksum is 0x0000 (R88 (c)): the checksum lies at an even offset. -/
theorem computeChecksum_packetBytes (P : List Byte) (T : Byte) (I S : Half) :
    computeChecksum (packetBytes P T I S) = 0x0000#16 := by
  have hset := zeroedPacket_set_checksum P T (computeChecksum (zeroedPacket P T I S)) I S
  rw [packetBytes, ← hset]
  exact Proofs.checksummedBufferValidates _ 2 rfl (by simp [zeroedPacket]) rfl rfl

/-- The sequence number is one word of the sum of `Z`. -/
theorem wsum_zeroedPacket (P : List Byte) (T : Byte) (I S : Half) :
    wsum (zeroedPacket P T I S) = wsum ([T, 0#8] ++ be16 I ++ P) + S.toNat := by
  have hzero : (word 0#8 0#8).toNat = 0 := by decide
  simp only [zeroedPacket, be16, Config.code, List.cons_append, List.nil_append, wsum_cons_cons, word_hi8_lo8, hzero]
  omega

/-- Two buffers have the same checksum exactly where their folded sums agree. -/
theorem computeChecksum_eq_iff_fold (A B : List Byte) :
    computeChecksum A = computeChecksum B ↔ fold16 (wsum A) = fold16 (wsum B) := by
  have hA := fold16_le (wsum A)
  have hB := fold16_le (wsum B)
  rw [BitVec.toNat_eq, computeChecksum_toNat, computeChecksum_toNat]
  omega

/-- Two different words give the same folded sum only if they are the two zeros of the one's complement and the rest of
the sum is not 0 (90_conflicts.md C3). -/
theorem fold16_add_eq_iff {r : Nat} {v w : Half} (hvw : v ≠ w) :
    fold16 (r + v.toNat) = fold16 (r + w.toNat) ↔
      ((v = 0x0000#16 ∧ w = 0xFFFF#16) ∨ (v = 0xFFFF#16 ∧ w = 0x0000#16)) ∧ r ≠ 0 := by
  have hv := v.isLt
  have hw := w.isLt
  simp only [ne_eq, BitVec.toNat_eq, BitVec.toNat_ofNat, fold16_eq] at hvw ⊢
  split <;> split <;> omega

theorem half_eq_iff_bytes (v w : Half) : v = w ↔ hi8 v = hi8 w ∧ lo8 v = lo8 w := by
  refine ⟨by rintro rfl; exact ⟨rfl, rfl⟩, fun ⟨hhi, hlo⟩ => ?_⟩
  rw [← word_hi8_lo8 v, ← word_hi8_lo8 w, hhi, hlo]

/-- Packets that differ only in the sequence agree outside the checksum and the sequence field. -/
theorem packetWith_getElem?_congr (P : List Byte) (T : Byte) (I C C' S S' : Half) {k : Nat}
    (h2 : k ≠ 2) (h3 : k ≠ 3) (h6 : k ≠ 6) (h7 : k ≠ 7) :
    (packetWith P T C I S)[k]? = (packetWith P T C' I S')[k]? := by
  rw [packetWith_eq, packetWith_eq]
  match k with
  | 0 | 1 | 4 | 5 => rfl
  | 2 | 3 | 6 | 7 => contradiction
  | _ + 8 => rfl

/-- The rest of `Z` beside its sequence number sums to 0 only if it is all zero. -/
theorem wsum_rest_ne_zero (P : List Byte) (T : Byte) (I : Half) :
    wsum ([T, 0#8] ++ be16 I ++ P) ≠ 0 ↔ ∃ b ∈ [T] ++ be16 I ++ P, b ≠ 0#8 := by
  rw [ne_eq, wsum_eq_zero, not_forall]
  refine exists_congr fun b => ?_
  simp only [be16, List.cons_append, List.nil_append, List.mem_cons]
  tauto

/-- The checksum fields of packets that differ in the sequence only (R88 (b), 90_conflicts.md C3). -/
theorem checksum_eq_of_seq_ne (P : List Byte) (T : Byte) (I : Half) {S S' : Half} (hS : S ≠ S') :
    computeChecksum (zeroedPacket P T I S) = computeChecksum (zeroedPacket P T I S') ↔
      ((S = 0x0000#16 ∧ S' = 0xFFFF#16) ∨ (S = 0xFFFF#16 ∧ S' = 0x0000#16)) ∧ ∃ b ∈ [T] ++ be16 I ++ P, b ≠ 0#8 := by
  rw [computeChecksum_eq_iff_fold, wsum_zeroedPacket, wsum_zeroedPacket, fold16_add_eq_iff hS, wsum_rest_ne_zero]

/-! ### The framer's commands on a block that is not FAULTED -/

/-- The whole next state of a command that raises a fault. -/
theorem exec_of_effect_raised {s : State} {i : Instr} {b : Block} {c : Cause}
    (h : CommandEffect s.block i (b.raised c) 0#16) :
    exec i s = .next { s with block := { b with fault := true, cause := c.code }, port := .response c.faultWord } :=
  (exec_of_effect h).trans (raise_next s b c)

/-- PFPUSH's write, at `PAY+PLEN`, appends. -/
theorem Block.write_pushAddr (b : Block) (x : Byte) :
    b.mem.write b.pushAddr x = { b.mem with pay := b.mem.pay ++ [x] } := by
  simp [Memory.write, Block.pushAddr, Block.plen]

/-- PFPUSH's effect while there is room (R85). -/
theorem CommandEffect.pfpush_append {b : Block} (x : Byte) (hf : b.fault = false) (room : b.mem.pay.length < 32) :
    CommandEffect b (.pfpush x) { b with mem := { b.mem with pay := b.mem.pay ++ [x] } } 0#16 := by
  rw [← Block.write_pushAddr]
  exact .pfpush hf room

/-- PFBUILD's effect for a legal type (R89). -/
theorem CommandEffect.pfbuild_packet {b : Block} (hf : b.fault = false) (ht : legalType b.ptype = true) :
    CommandEffect b .pfbuild { b with mem := { b.mem with pkt := packetBytes b.mem.pay b.ptype b.ident b.seq } }
      (BitVec.ofNat 16 (8 + b.mem.pay.length)) := by
  rw [← Memory.buildPkt_eq]
  exact .pfbuild hf ht

/-- The next command after an answer. -/
theorem exec_answered_of_effect (s : State) {i : Instr} {b b' : Block} (d : Half) {d' : Half}
    (h : CommandEffect b i b' d') : exec i (s.answered b d) = .next (s.answered b' d') :=
  exec_of_effect (s := s.answered b d) h

/-- Any number of PFPUSHes within the bound append their bytes. -/
theorem execAll_pushes (P : List Byte) (s : State) {b : Block} (hf : b.fault = false)
    (hlen : b.mem.pay.length + P.length ≤ 32) :
    execAll (P.map .pfpush) (s.answered b 0#16) =
      .next (s.answered { b with mem := { b.mem with pay := b.mem.pay ++ P } } 0#16) := by
  induction P generalizing b with
  | nil => simp [execAll]
  | cons x P ih =>
    rw [List.length_cons] at hlen
    have hroom : b.mem.pay.length < 32 := by omega
    have hlen' : (b.mem.pay ++ [x]).length + P.length ≤ 32 := by rw [List.length_append, List.length_singleton]; omega
    have hrest := ih (b := { b with mem := { b.mem with pay := b.mem.pay ++ [x] } }) hf hlen'
    rw [List.map_cons, execAll_cons_of_next _ (exec_answered_of_effect s _ (.pfpush_append x hf hroom)), hrest,
      List.append_assoc, List.singleton_append]

/-- A sequence in two parts. -/
theorem execAll_append_of_next {s t : State} {is : List Instr} (js : List Instr) (h : execAll is s = .next t) :
    execAll (is ++ js) s = execAll js t := by
  induction is generalizing s with
  | nil => cases h; rfl
  | cons i is ih =>
    obtain ⟨b, d, hi⟩ := exec_answers i s
    rw [execAll_cons_of_next _ hi] at h
    rw [List.cons_append, execAll_cons_of_next _ hi, ih h]

/-- PFLOAD (R62) of a payload within the bound: the payload buffer holds it. -/
theorem execAll_pfload {s : State} {P : List Byte} (hf : s.block.fault = false) (hP : P.length ≤ 32) :
    execAll (pfload P) s = .next (s.answered { s.block with mem := { s.block.mem with pay := P } } 0#16) := by
  have hpushes := execAll_pushes P s (b := { s.block with mem := { s.block.mem with pay := [] } }) hf (by simpa using hP)
  rw [pfload, List.singleton_append, execAll_cons_of_next _ (exec_of_effect (.pfclr hf)), hpushes, List.nil_append]

/-- PFLOAD and PFBUILD: the packet of the payload and of the operands the block holds. -/
theorem execAll_pfload_pfbuild {s : State} {P : List Byte} (hf : s.block.fault = false)
    (ht : legalType s.block.ptype = true) (hP : P.length ≤ 32) :
    execAll (pfload P ++ [.pfbuild]) s =
      .next (s.answered
        { s.block with mem := { pay := P, pkt := packetBytes P s.block.ptype s.block.ident s.block.seq } }
        (BitVec.ofNat 16 (8 + P.length))) := by
  rw [execAll_append_of_next _ (execAll_pfload hf hP), execAll_single]
  exact exec_answered_of_effect s _ (.pfbuild_packet hf ht)

/-- BUILDPACKET (R62, R93) from any state that is not FAULTED, whole. -/
theorem execAll_buildPacketProc {s : State} {P : List Byte} {T : Byte} (I S : Half) (hf : s.block.fault = false)
    (hT : legalType T = true) (hP : P.length ≤ 32) :
    execAll (buildPacketProc T I S P) s =
      .next (s.answered
        { s.block with ptype := T, ident := I, seq := S, mem := { pay := P, pkt := packetBytes P T I S } }
        (BitVec.ofNat 16 (8 + P.length))) := by
  have htype : exec (.pftype T) s = .next (s.answered { s.block with ptype := T } 0#16) := exec_of_effect (.pftype hf)
  have hident := exec_answered_of_effect s (b := { s.block with ptype := T }) 0#16 (.pfid (w := I) hf)
  have hseq := exec_answered_of_effect s (b := { s.block with ptype := T, ident := I }) 0#16 (.pfseq (w := S) hf)
  rw [buildPacketProc, List.append_assoc, List.cons_append, execAll_cons_of_next _ htype, List.cons_append,
    execAll_cons_of_next _ hident, List.cons_append, execAll_cons_of_next _ hseq, List.nil_append]
  exact execAll_pfload_pfbuild (s := s.answered { s.block with ptype := T, ident := I, seq := S } 0#16) hf hT hP

/-- A byte zero-extended to `DATA`, in a response without a fault. -/
theorem zero_append_setWidth (x : Byte) : 0#16 ++ x.setWidth 16 = 0#24 ++ x := by
  have hx := x.isLt
  apply BitVec.eq_of_toNat_eq
  simp only [BitVec.toNat_append, BitVec.toNat_setWidth, BitVec.toNat_zero, Nat.zero_shiftLeft, Nat.zero_or]
  omega

end Sys2Proof.Machine

namespace Sys2Proof.Proofs

open Sys2Proof.Machine

/-- Settles O29: by PFPUSH's effect; the model's write at `PAY+PLEN` is read there and nowhere else. -/
theorem pfpushAppendsOneByte : Obligations.PfpushAppendsOneByte := by
  refine ⟨fun b => commandWord_byte_eq_add 0x24#8 b,
    fun s b hf room => exec_of_effect_clear_zero (.pfpush_append b hf room) hf, fun s t b hf room h => ?_⟩
  rw [exec_of_effect (.pfpush hf room)] at h
  cases h
  exact ⟨by simp [Block.plen, Block.pushAddr], Memory.read_write_same _ s.block.pushAddr _ le_rfl,
    fun a ha => Memory.read_write_other _ _ _ _ ha⟩

/-- Settles O31: by PFBUILD's effect for a legal type, which writes `PKT` alone. -/
theorem pfbuildBuildsThePacket : Obligations.PfbuildBuildsThePacket := by
  refine ⟨by decide, fun s hf ht => exec_of_effect_clear (.pfbuild_packet hf ((legalType_eq_true _).2 ht)) hf,
    fun s t hf ht hlen h => ?_⟩
  have hlegal := (legalType_eq_true _).2 ht
  rw [exec_of_effect (.pfbuild_packet hf hlegal)] at h
  cases h
  exact ⟨buildPacket_of_legal _ _ hlegal hlen, packetBytes_length _ _ _ _, fun _ => rfl, fun _ => rfl⟩

/-- Settles O35: (a) and (d) by the packet's bytes, (c) by the validation law, (b) by the sequence number's being one
word of the folded sum. -/
theorem builtPacketIsSelfConsistent : Obligations.BuiltPacketIsSelfConsistent := by
  refine ⟨fun P T I S K hK => ?_, fun P T I S S' K K' hS hK hK' => ?_⟩
  · obtain ⟨-, -, rfl⟩ := buildPacket_eq_some.1 hK
    refine ⟨?_, computeChecksum_packetBytes P T I S, packetBytes_length P T I S, rfl, rfl, rfl, rfl, rfl, rfl,
      fun k => ?_⟩
    · rw [packetBytes, packetWith_zero_checksum]
      exact (word_hi8_lo8 _).symm
    · rw [packetBytes, packetWith_eq, Nat.add_comm]
      rfl
  · obtain ⟨-, -, rfl⟩ := buildPacket_eq_some.1 hK
    obtain ⟨-, -, rfl⟩ := buildPacket_eq_some.1 hK'
    refine ⟨fun k => packetWith_getElem?_congr P T I _ _ S S', ?_, ?_⟩
    · rw [ne_eq, ne_eq, ← not_and_or]
      rintro ⟨h6, h7⟩
      exact hS ((half_eq_iff_bytes S S').2 ⟨Option.some.inj h6, Option.some.inj h7⟩)
    · rw [← checksum_eq_of_seq_ne P T I hS, half_eq_iff_bytes]
      exact and_congr Option.some_inj Option.some_inj

/-- Settles O36: the procedure's whole result, by induction on the payload. -/
theorem buildPacketProcedureBuildsThePacket : Obligations.BuildPacketProcedureBuildsThePacket := by
  intro s P T I S K hf hK
  obtain ⟨hT, hP, rfl⟩ := buildPacket_eq_some.1 hK
  refine ⟨_, execAll_buildPacketProc I S hf hT hP, ?_, rfl⟩
  rw [packetBytes_length]
  exact congrArg Port.response (Block.responseWord_clear _ _ hf)

/-- Settles O27: by the three effects; among all effects PFSEQ's and RESET's alone write `SEQ`. -/
theorem operandCommandsStoreTheirOperand : Obligations.OperandCommandsStoreTheirOperand := by
  refine ⟨commandWord_byte_eq_add 0x20#8, commandWord_eq_add 0x21#8, commandWord_eq_add 0x22#8,
    fun s b hf => exec_of_effect_clear_zero (.pftype hf) hf, fun s w hf => exec_of_effect_clear_zero (.pfid hf) hf,
    fun s w hf => exec_of_effect_clear_zero (.pfseq hf) hf, fun i s t h hr hi => ?_⟩
  obtain ⟨b', d, he, rfl⟩ := exec_effect h
  exact he.seq_eq hr hi

/-- Settles O28: by PFCLR's effect, and PFBUILD's on the block it leaves. -/
theorem pfclrEmptiesThePayload : Obligations.PfclrEmptiesThePayload := by
  refine ⟨by decide, fun s hf => exec_of_effect_clear_zero (.pfclr hf) hf, fun s t u hf ht hst htu => ?_⟩
  rw [exec_of_effect (.pfclr hf)] at hst
  cases hst
  have hbuild := exec_answered_of_effect s 0#16 <|
    CommandEffect.pfbuild_packet (b := { s.block with mem := { s.block.mem with pay := [] } }) hf ht
  rw [hbuild] at htu
  cases htu
  exact ⟨(buildPacket_of_legal _ _ ht (Nat.zero_le _)).symm, packetBytes_length _ _ _ _⟩

/-- Settles O30: by PFPUSH's effect on a full payload buffer. -/
theorem pfpushOverflowDropsTheByte : Obligations.PfpushOverflowDropsTheByte :=
  fun _ _ hf hfull => exec_of_effect_raised (.pfpushFull hf (by omega))

/-- Settles O32: by PFBUILD's effect for another type; the faulted block still answers RDSR. -/
theorem pfbuildBadTypeBuildsNothing : Obligations.PfbuildBadTypeBuildsNothing := by
  intro s hf h0 h8
  have ht := (legalType_eq_false s.block.ptype).2 ⟨h0, h8⟩
  have hexec := exec_of_effect_raised (.pfbuildBadType hf ht)
  refine ⟨hexec, fun P I S => buildPacket_of_illegal P I S ht, fun t h => ?_⟩
  rw [hexec] at h
  cases h
  rw [exec_of_effect (.rdsr (v := s.block.ptype.setWidth 16) rfl), State.answered, Block.responseWord_faulted _ _ rfl]
  rfl

/-- Settles O33: by PFRD's effect below `PKTLEN`. -/
theorem pfrdAnswersThePacketByte : Obligations.PfrdAnswersThePacketByte := by
  refine ⟨commandWord_eq_add 0x26#8, fun s i b hf hb => ?_, fun s i => ?_⟩
  · rw [exec_of_effect_clear (.pfrd hf hb) hf, zero_append_setWidth]
  · rw [← Nat.not_le, ← Memory.read_pkt_eq_none, ← ne_eq, Option.ne_none_iff_exists']

/-- Settles O34: by PFRD's effect at or beyond `PKTLEN`, which no offset is below when it is 0. -/
theorem pfrdBeyondThePacketFaults : Obligations.PfrdBeyondThePacketFaults := by
  have hbeyond {s : State} {i : Half} (hf : s.block.fault = false) (hi : s.block.mem.pkt.length ≤ i.toNat) :=
    exec_of_effect_raised (.pfrdBeyond hf hi)
  exact ⟨fun _ _ => hbeyond, fun s i hf hempty => hbeyond hf (by simp [hempty])⟩

end Sys2Proof.Proofs

/-! # The system commands RESET and RDSR (42_system_commands.md R96, R97) -/

namespace Sys2Proof.Machine

/-- The decoder gives a command on its encoding only, and only where the command is well formed (R49). -/
theorem decode_eq_command_iff (w : Word) (i : Instr) : decode w = .command i ↔ i.WellFormed = true ∧ encode i = w := by
  refine ⟨decode_eq_command, ?_⟩
  rintro ⟨hi, rfl⟩
  exact decode_encode hi

/-- The sixteen bits above `DATA`: zero, or the set `F` and the stored `CAUSE` (R50). -/
theorem Block.responseWord_eq_append (b : Block) (d : Half) :
    b.responseWord d = (if b.fault then 0x80#8 ++ b.cause else 0#16) ++ d := by
  cases hf : b.fault with
  | true => exact b.responseWord_faulted d hf
  | false => exact b.responseWord_clear d hf

/-- The registers in the order of their numbers (10_state.md R22). -/
def Block.registers (b : Block) : List Half :=
  [b.status, b.acc, b.hold.setWidth 16, b.ptype.setWidth 16, b.ident, b.seq, BitVec.ofNat 16 b.plen,
    BitVec.ofNat 16 b.pktlen]

/-- The read-out is the table's entry; a number above 7 has none. -/
theorem Block.sr_eq_getElem? (b : Block) (n : Half) : b.sr n = b.registers[n.toNat]? := by
  by_cases hn : n.toNat ≤ 7
  · unfold Block.sr
    generalize n.toNat = k at hn
    interval_cases k <;> rfl
  · have hgt : 7 < n.toNat := by omega
    exact (b.sr_of_gt n hgt).trans (List.getElem?_eq_none hgt).symm

end Sys2Proof.Machine

namespace Sys2Proof.Proofs

open Sys2Proof.Machine

/-- Settles O15: a numbered register by RDSR's effect, which asks nothing of `FAULT`; a reserved number is not well
formed, so no word decodes to it, and its effect is fault entry or refusal. -/
theorem rdsrReadsTheNumberedRegister : Obligations.RdsrReadsTheNumberedRegister := by
  refine ⟨fun n _ => commandWord_eq_add 0x02#8 n, fun s n v hv => ?_,
    fun s n hn => ⟨fun w hw => ?_, fun hf => exec_of_effect_raised (.rdsrReserved hf hn), fun hf => ?_⟩⟩
  · have hsr : s.block.sr n = some v := (s.block.sr_eq_getElem? n).trans hv
    rw [exec_of_effect (.rdsr hsr), State.answered, Block.responseWord_eq_append]
  · have hle : n.toNat ≤ 7 := of_decide_eq_true (decode_eq_command hw).1
    omega
  · have hrefused : CommandEffect s.block (.rdsr n) s.block 0#16 :=
      .refused hf nofun fun m hm => by cases hm; exact hn
    exact (exec_of_effect hrefused).trans (refuse_next s hf)

/-- Settles O12: by RESET's one effect, `Block.reset` from every block; the encoding is one to one, and no effect but
RESET's clears `FAULT`. -/
theorem resetRestoresEveryRegister : Obligations.ResetRestoresEveryRegister := by
  have hblock {s t : State} (h : exec .reset s = .next t) : t.block = Block.reset := by
    rw [exec_of_effect .reset] at h
    cases h
    rfl
  refine ⟨fun w => ?_, fun s => exec_of_effect_clear_zero .reset rfl, fun _ _ => hblock,
    fun s t hs h => (hblock h).trans hs.symm, fun i s t h hf hf' => ?_⟩
  · have hword : encode .reset = 0x01000000#32 := by decide
    rw [decode_eq_command_iff, hword, eq_comm (a := w)]
    exact and_iff_right rfl
  · obtain ⟨b', d, he, rfl⟩ := exec_effect h
    exact he.eq_reset_of_cleared hf hf'

end Sys2Proof.Proofs

/-! # The stream of a file (43_transfer_driver.md R104 to R107, R113) -/

namespace Sys2Proof.Machine

/-! ### The chunks, read off one `readChunk` after another -/

/-- Enough reads deliver every chunk: more fuel than bytes changes nothing. -/
theorem chunksWithin_eq_chunks (fuel : Nat) {file : List Byte} (h : file.length ≤ fuel) :
    chunksWithin fuel file = chunks file := by
  suffices hfuel : ∀ n m (f : List Byte), f.length ≤ n → f.length ≤ m → chunksWithin n f = chunksWithin m f from
    hfuel fuel file.length file h le_rfl
  intro n
  induction n with
  | zero =>
    intro m f hn _
    obtain rfl := List.length_eq_zero_iff.1 (Nat.le_zero.1 hn)
    cases m <;> rfl
  | succ n ih =>
    intro m f hn hm
    match f, m with
    | [], 0 | [], _ + 1 => rfl
    | b :: f, m + 1 =>
      have hdrop : ((b :: f).drop Config.maxChunk).length ≤ f.length := by
        rw [List.length_drop, List.length_cons, Config.maxChunk]
        omega
      rw [List.length_cons] at hn hm
      exact congrArg (_ :: ·) (ih m _ (by omega) (by omega))

@[simp] theorem chunks_nil : chunks [] = [] := rfl

/-- A file that is not empty: its first 32 bytes, then the chunks of the rest (R105). -/
theorem chunks_of_ne_nil {file : List Byte} (h : file ≠ []) :
    chunks file = file.take 32 :: chunks (file.drop 32) := by
  obtain ⟨b, f, rfl⟩ := List.exists_cons_of_ne_nil h
  refine congrArg (_ :: ·) (chunksWithin_eq_chunks _ ?_)
  rw [List.length_drop, List.length_cons, Config.maxChunk]
  omega

theorem length_chunks_of_ne_nil {file : List Byte} (h : file ≠ []) :
    (chunks file).length = (chunks (file.drop 32)).length + 1 := by
  rw [chunks_of_ne_nil h, List.length_cons]

/-- Induction over a file in the steps in which it is read. -/
theorem chunk_induction {P : List Byte → Prop} (nil : P []) (cons : ∀ file ≠ [], P (file.drop 32) → P file)
    (file : List Byte) : P file := by
  induction hn : file.length using Nat.strong_induction_on generalizing file with
  | _ n ih =>
    by_cases hfile : file = []
    · exact hfile ▸ nil
    · have hpos := List.length_pos_iff.2 hfile
      exact cons file hfile (ih _ (by rw [List.length_drop]; omega) _ rfl)

theorem chunks_length (file : List Byte) : (chunks file).length = (file.length + 31) / 32 := by
  induction file using chunk_induction with
  | nil => rfl
  | cons file hfile ih =>
    have hpos := List.length_pos_iff.2 hfile
    rw [length_chunks_of_ne_nil hfile, ih, List.length_drop]
    omega

theorem chunks_flatten (file : List Byte) : (chunks file).flatten = file := by
  induction file using chunk_induction with
  | nil => rfl
  | cons file hfile ih => rw [chunks_of_ne_nil hfile, List.flatten_cons, ih, List.take_append_drop]

/-- The `k`-th chunk is the `k`-th 32-byte piece of the file (R105). -/
theorem chunks_getElem? (file : List Byte) {k : Nat} (hk : k < (chunks file).length) :
    (chunks file)[k]? = some ((file.drop (32 * k)).take 32) := by
  induction file using chunk_induction generalizing k with
  | nil => simp at hk
  | cons file hfile ih =>
    rw [chunks_of_ne_nil hfile] at hk ⊢
    cases k with
    | zero => rfl
    | succ k =>
      rw [List.getElem?_cons_succ, ih (Nat.lt_of_succ_lt_succ hk), List.drop_drop, Nat.mul_succ, Nat.add_comm]

/-! ### The packets -/

theorem dataPackets_length (ident : Half) (k : Nat) (cs : List (List Byte)) :
    (dataPackets ident k cs).length = cs.length := by
  induction cs generalizing k with
  | nil => rfl
  | cons c cs ih => exact congrArg (· + 1) (ih (k + 1))

/-- The data packet at place `j` carries the chunk at place `j` and the number `j` steps from the first (R107). -/
theorem dataPackets_getElem? (ident : Half) (k : Nat) (cs : List (List Byte)) (j : Nat) :
    (dataPackets ident k cs)[j]? =
      cs[j]?.map fun c => packetBytes c Config.typeEchoReply ident (BitVec.ofNat 16 (k + j)) := by
  induction cs generalizing k j with
  | nil => rfl
  | cons c cs ih =>
    cases j with
    | zero => rfl
    | succ j => rw [dataPackets, List.getElem?_cons_succ, List.getElem?_cons_succ, ih, Nat.succ_add_eq_add_succ]

/-- What is still to be sent when the counter is `k` and `file` has not been read yet (R108). -/
def packetsFrom (ident : Half) (k : Nat) (file : List Byte) : List (List Byte) :=
  dataPackets ident k (chunks file) ++ [endMarker ident]

theorem packetsFrom_zero (ident : Half) (file : List Byte) : packetsFrom ident 0 file = streamOf ident file := rfl

@[simp] theorem packetsFrom_nil (ident : Half) (k : Nat) : packetsFrom ident k [] = [endMarker ident] := rfl

theorem packetsFrom_of_ne_nil (ident : Half) (k : Nat) {file : List Byte} (h : file ≠ []) :
    packetsFrom ident k file =
      packetBytes (file.take 32) Config.typeEchoReply ident (BitVec.ofNat 16 k) ::
        packetsFrom ident (k + 1) (file.drop 32) := by
  rw [packetsFrom, chunks_of_ne_nil h]
  rfl

/-- The sequence field of a packet (R53). -/
theorem word_seq_packetBytes (P : List Byte) (T : Byte) (I S : Half) :
    word ((packetBytes P T I S).getD 6 0#8) ((packetBytes P T I S).getD 7 0#8) = S :=
  word_hi8_lo8 S

/-- The data packet at place `k` of a stream is built of the `k`-th piece of the file and the number `k` (R106, R107). -/
theorem streamOf_getElem? (ident : Half) (file : List Byte) {k : Nat} (hk : k < (chunks file).length) :
    (streamOf ident file)[k]? =
      some (packetBytes ((file.drop (32 * k)).take 32) Config.typeEchoReply ident (BitVec.ofNat 16 k)) := by
  have hdata : k < (dataPackets ident 0 (chunks file)).length := by rwa [dataPackets_length]
  rw [streamOf, List.getElem?_append_left hdata, dataPackets_getElem?, chunks_getElem? file hk, Option.map_some,
    Nat.zero_add]

/-- The end marker follows the data packets (R104). -/
theorem streamOf_getElem?_end (ident : Half) (file : List Byte) :
    (streamOf ident file)[(chunks file).length]? = some (endMarker ident) := by
  rw [streamOf, ← dataPackets_length ident 0 (chunks file), List.getElem?_concat_length]

end Sys2Proof.Machine

namespace Sys2Proof.Proofs

open Sys2Proof.Machine

/-- Settles O46: each packet by its place in the stream, each chunk by its place in the file. -/
theorem streamHasTheStatedShape : Obligations.StreamHasTheStatedShape := by
  intro ident file hbound
  have hlen := chunks_length file
  rw [← hlen]
  refine ⟨?_, fun k hk => ?_, ?_, chunks_flatten file⟩
  · rw [streamOf, List.length_append, dataPackets_length, List.length_singleton]
  · have hpacket := streamOf_getElem? ident file hk
    have hseq : (BitVec.ofNat 16 k).toNat = k := Nat.mod_eq_of_lt (by omega)
    refine ⟨?_, hseq, fun h => ?_, fun K hK => ?_, ?_, fun hlast => ?_⟩
    · rw [hpacket]
      exact (buildPacket_of_legal _ _ (by decide) (List.length_take_le _ _)).symm
    · rw [h, BitVec.toNat_ofNat] at hseq
      omega
    · rw [hpacket, Option.some.injEq] at hK
      rw [← hK, word_seq_packetBytes]
    all_goals
      rw [List.length_take, List.length_drop]
      omega
  · rw [streamOf_getElem?_end]
    exact (buildPacket_of_legal _ _ (by decide) (Nat.zero_le _)).symm

end Sys2Proof.Proofs

/-! # The driver's moves (43_transfer_driver.md R101, R108, R110) -/

namespace Sys2Proof.Machine

section DriverMoves

variable {s : State}

/-- READING with a file that is not empty: a chunk within the bound is emitted, a chunk beyond it refused (R105, R114). -/
theorem driverMove_of_chunk (hphase : s.host.driver.phase = .reading) (hfile : s.host.driver.file ≠ []) :
    driverMove s =
      if s.host.driver.counter < Config.maxChunks then
        .next { s with host := { s.host with
          script := emitProc (BitVec.ofNat 16 s.host.driver.counter) (s.host.driver.file.take 32)
          driver := { s.host.driver with file := s.host.driver.file.drop 32, phase := .emitData } } }
      else .refused .chunkBoundExceeded := by
  obtain ⟨b, file, hfile⟩ := List.exists_cons_of_ne_nil hfile
  simp [driverMove, hphase, hfile, readChunk, Config.maxChunk]

/-- READING at the end of the file: the end marker is emitted (R104, R108). -/
theorem driverMove_of_endOfFile (hphase : s.host.driver.phase = .reading) (hfile : s.host.driver.file = []) :
    driverMove s =
      .next { s with host := { s.host with
        script := emitProc Config.endSeq []
        driver := { s.host.driver with phase := .emitEnd } } } := by
  simp [driverMove, hphase, hfile, readChunk]

/-- The driver refuses only a chunk beyond the bound (R114). -/
theorem driverMove_eq_refused {why : Refusal} (h : driverMove s = .refused why) :
    why = .chunkBoundExceeded ∧ s.host.driver.phase = .reading ∧ s.host.driver.file ≠ [] ∧
      0xFFFE ≤ s.host.driver.counter := by
  cases hphase : s.host.driver.phase
  case reading =>
    by_cases hfile : s.host.driver.file = []
    · rw [driverMove_of_endOfFile hphase hfile] at h
      cases h
    · rw [driverMove_of_chunk hphase hfile] at h
      split at h
      case isTrue => cases h
      case isFalse hcounter =>
        cases h
        exact ⟨rfl, rfl, hfile, Nat.le_of_not_lt hcounter⟩
  all_goals
    rw [driverMove] at h
    simp only [hphase] at h
    cases h

/-- With its script worked off the host leaves the move to the driver. -/
theorem step_of_script_nil (hr : s.hwReset = false) (hp : s.port = .idle) (hs : s.host.script = []) :
    step s = driverMove s := by
  rw [step_of_idle s hr hp, hostIssue]
  simp only [hs]

/-- The machine refuses no step but one of the driver. -/
theorem driverMove_of_step_refused {why : Refusal} (h : step s = .refused why) : driverMove s = .refused why := by
  cases hr : s.hwReset
  case true => cases (step_of_hwReset s hr).symm.trans h
  case false =>
    cases hp : s.port
    case command w =>
      obtain ⟨b, d, hanswer⟩ := runCommand_answers w s
      cases hanswer.symm.trans ((step_of_command s w hr hp).symm.trans h)
    case response r => cases (step_of_response s r hr hp).symm.trans h
    case idle =>
      cases hs : s.host.script
      case nil => exact (step_of_script_nil hr hp hs).symm.trans h
      case cons op rest =>
        rw [step_of_idle s hr hp, hostIssue] at h
        simp only [hs] at h
        cases op <;> cases h

end DriverMoves

end Sys2Proof.Machine

namespace Sys2Proof.Proofs

open Sys2Proof.Machine

/-- Settles O47: every other move of the machine is a next state, and so is every other move of the driver. -/
theorem driverRefusesOnlyBeyondTheBound : Obligations.DriverRefusesOnlyBeyondTheBound := by
  refine ⟨fun s hr hp hs hphase hfile hcounter => ?_, fun s why h =>
    driverMove_eq_refused (driverMove_of_step_refused h)⟩
  rw [step_of_script_nil hr hp hs, driverMove_of_chunk hphase hfile]
  exact if_neg (Nat.not_lt.2 hcounter)

end Sys2Proof.Proofs

/-! # The transfer, packet by packet (43_transfer_driver.md R108 to R113) -/

namespace Sys2Proof.Machine

/-! ### The host at work on a script of the driver -/

/-- Nothing is outstanding, no reset event is waiting, and the host has `script` still to do, with the driver `d`. -/
structure AtWork (s : State) (script : List HostOp) (d : Driver) : Prop where
  noReset : s.hwReset = false
  idle : s.port = .idle
  script_eq : s.host.script = script
  driver_eq : s.host.driver = d

/-- The host issues a command, has its answer and takes it; the driver stays, as the answer reports no fault. -/
theorem AtWork.run_send {s : State} {i : Instr} {rest : List HostOp} {d : Driver} {b : Block} {x : Half}
    (h : AtWork s (sendInstr i :: rest) d) (hi : i.WellFormed = true) (he : CommandEffect s.block i b x)
    (hb : b.fault = false) :
    ∃ t, run 3 s = .next t ∧ AtWork t rest d ∧ t.block = b ∧ t.host.last = b.responseWord x := by
  obtain ⟨hreset, hidle, hscript, hdriver⟩ := h
  exact ⟨_, Machine.run_send s _ rest b x hreset hidle hscript
    (fun t ht => runCommand_encode_of_effect hi (ht ▸ he)) (.inr hb), ⟨hreset, hidle, rfl, hdriver⟩, rfl, rfl⟩

/-- A sequence without RESET that ends without a fault began without one (R125). -/
theorem execAll_clear_of_clear {is : List Instr} {s t : State} (h : execAll is s = .next t)
    (hr : ∀ i ∈ is, i ≠ .reset) (ht : t.block.fault = false) : s.block.fault = false := by
  induction is generalizing s with
  | nil => cases h; exact ht
  | cons i is ih =>
    obtain ⟨b, x, he⟩ := commandEffect_exists i s.block
    rw [execAll_cons_of_next _ (exec_of_effect he)] at h
    have hb : b.fault = false := ih h (List.forall_mem_cons.1 hr).2
    by_contra hs
    exact (List.forall_mem_cons.1 hr).1 (he.eq_reset_of_cleared (Bool.eq_true_of_not_eq_false hs) hb)

/-- The host works off commands as their fold does, begun where the last response was still on the port, if the fold
ends without a fault. -/
theorem AtWork.run_commands {is : List Instr} {s v u : State} {rest : List HostOp} {d : Driver}
    (h : AtWork s (is.map sendInstr ++ rest) d) (his : ∀ i ∈ is, i.WellFormed = true) (hr : ∀ i ∈ is, i ≠ .reset)
    (hblock : v.block = s.block) (hport : v.port = .response s.host.last) (hfold : execAll is v = .next u)
    (hu : u.block.fault = false) :
    ∃ t, run (3 * is.length) s = .next t ∧ AtWork t rest d ∧ u.block = t.block ∧ u.port = .response t.host.last := by
  induction is generalizing s v with
  | nil => cases hfold; exact ⟨s, rfl, h, hblock, hport⟩
  | cons i is ih =>
    obtain ⟨hi, his⟩ := List.forall_mem_cons.1 his
    obtain ⟨-, hr⟩ := List.forall_mem_cons.1 hr
    obtain ⟨b, x, he⟩ := commandEffect_exists i v.block
    rw [execAll_cons_of_next _ (exec_of_effect he)] at hfold
    have hb : b.fault = false := execAll_clear_of_clear hfold hr hu
    obtain ⟨s₁, hrun, h₁, hblock₁, hlast₁⟩ := h.run_send hi (hblock ▸ he) hb
    obtain ⟨t, hrun', ht⟩ := ih h₁ his hr hblock₁.symm (congrArg Port.response hlast₁.symm) hfold
    refine ⟨t, ?_, ht⟩
    rw [List.length_cons, Nat.mul_succ, Nat.add_comm]
    exact run_trans hrun hrun'

/-- The host issues `PFRD j` for a byte of the packet, has the answer and keeps the byte. -/
theorem AtWork.run_fetch {s : State} {j : Half} {x : Byte} {rest : List HostOp} {d : Driver}
    (h : AtWork s (.fetch j :: rest) d) (hf : s.block.fault = false) (hx : s.block.mem.read (.pkt j.toNat) = some x) :
    ∃ t, run 3 s = .next t ∧ AtWork t rest d ∧ t.block = s.block ∧ t.host.bytes = s.host.bytes ++ [x] := by
  obtain ⟨hreset, hidle, hscript, hdriver⟩ := h
  have he : CommandEffect s.block (.pfrd j) s.block (x.setWidth 16) := .pfrd hf hx
  refine ⟨_, Machine.run_fetch s j rest s.block (x.setWidth 16) hreset hidle hscript
    (fun t ht => runCommand_encode_of_effect rfl (ht ▸ he)) (.inr hf), ⟨hreset, hidle, rfl, hdriver⟩, rfl, ?_⟩
  exact congrArg (s.host.bytes ++ [·]) (byteOperand_setWidth x)

/-- The host's fetches collect the bytes at their offsets, in order. -/
theorem AtWork.run_fetches (js : List Half) {xs : List Byte} {s : State} {rest : List HostOp} {d : Driver}
    (h : AtWork s (js.map .fetch ++ rest) d) (hf : s.block.fault = false)
    (hxs : js.map (fun j => s.block.mem.read (.pkt j.toNat)) = xs.map some) :
    ∃ t, run (3 * js.length) s = .next t ∧ AtWork t rest d ∧ t.block = s.block ∧
      t.host.bytes = s.host.bytes ++ xs := by
  induction js generalizing s xs with
  | nil =>
    obtain rfl : xs = [] := List.map_eq_nil_iff.1 hxs.symm
    exact ⟨s, rfl, h, rfl, (List.append_nil _).symm⟩
  | cons j js ih =>
    obtain _ | ⟨x, xs⟩ := xs
    · cases hxs
    obtain ⟨hx, hxs⟩ := List.cons_eq_cons.1 hxs
    obtain ⟨s₁, hrun, h₁, hblock₁, hbytes₁⟩ := h.run_fetch hf hx
    obtain ⟨t, hrun', ht, hblock, hbytes⟩ := ih h₁ (hblock₁ ▸ hf) (hblock₁ ▸ hxs)
    refine ⟨t, ?_, ht, hblock.trans hblock₁, ?_⟩
    · rw [List.length_cons, Nat.mul_succ, Nat.add_comm]
      exact run_trans hrun hrun'
    · rw [hbytes, hbytes₁, List.append_assoc, List.singleton_append]

/-- The host begins reading out: its script now fetches as many bytes as the last response says. -/
theorem AtWork.run_beginReadOut {s : State} {rest : List HostOp} {d : Driver} (h : AtWork s (.readOut :: rest) d) :
    ∃ t, run 1 s = .next t ∧ AtWork t (fetches (respData s.host.last).toNat ++ rest) d ∧ t.block = s.block ∧
      t.host.bytes = [] := by
  obtain ⟨hreset, hidle, hscript, hdriver⟩ := h
  exact ⟨_, Machine.run_readOut s rest hreset hidle hscript, ⟨hreset, hidle, rfl, hdriver⟩, rfl, rfl⟩

/-- Reading the packet out, when the last response says how long it is (R109). -/
theorem AtWork.run_readOut {s : State} {rest : List HostOp} {d : Driver} (h : AtWork s (.readOut :: rest) d)
    (hf : s.block.fault = false) (hlen : s.block.mem.pkt.length ≤ 0xFFFF)
    (hlast : respData s.host.last = BitVec.ofNat 16 s.block.mem.pkt.length) :
    ∃ t, run (1 + 3 * s.block.mem.pkt.length) s = .next t ∧ AtWork t rest d ∧ t.block = s.block ∧
      t.host.bytes = s.block.mem.pkt := by
  have hn : (respData s.host.last).toNat = s.block.mem.pkt.length := by
    rw [hlast, BitVec.toNat_ofNat]
    exact Nat.mod_eq_of_lt (Nat.lt_succ_of_le hlen)
  obtain ⟨s₁, hrun, h₁, hblock₁, hbytes₁⟩ := h.run_beginReadOut
  rw [hn, fetches_eq] at h₁
  obtain ⟨t, hrun', ht, hblock, hbytes⟩ := h₁.run_fetches _ (hblock₁ ▸ hf)
    (by rw [hblock₁]; exact Memory.read_pkt_range (hlen.trans (Nat.le_succ _)))
  rw [List.length_map, List.length_range] at hrun'
  exact ⟨t, run_trans hrun hrun', ht, hblock.trans hblock₁, by rw [hbytes, hbytes₁, List.nil_append]⟩

/-! ### One packet -/

/-- The commands that build one packet (R109). -/
def emitCommands (seq : Half) (chunk : List Byte) : List Instr := [.pfseq seq] ++ pfload chunk ++ [.pfbuild]

theorem emitProc_eq (seq : Half) (chunk : List Byte) :
    emitProc seq chunk = (emitCommands seq chunk).map sendInstr ++ [.readOut] := rfl

theorem emitCommands_length (seq : Half) (chunk : List Byte) : (emitCommands seq chunk).length = 3 + chunk.length := by
  simp only [emitCommands, pfload, List.length_append, List.length_map, List.length_singleton]
  omega

theorem emitCommands_wellFormed (seq : Half) (chunk : List Byte) :
    ∀ i ∈ emitCommands seq chunk, i.WellFormed = true := by
  simp only [emitCommands, List.forall_mem_append, List.forall_mem_singleton]
  exact ⟨⟨rfl, pfload_wellFormed chunk⟩, rfl⟩

theorem emitCommands_ne_reset (seq : Half) (chunk : List Byte) : ∀ i ∈ emitCommands seq chunk, i ≠ .reset := by
  simp only [emitCommands, pfload, List.forall_mem_append, List.forall_mem_map, List.forall_mem_singleton]
  exact ⟨⟨nofun, nofun, fun _ _ => nofun⟩, nofun⟩

/-- What the commands leave: the packet of the chunk, with the type and the identifier that the block holds. -/
theorem execAll_emitCommands {s : State} (seq : Half) {chunk : List Byte} (hf : s.block.fault = false)
    (ht : legalType s.block.ptype = true) (hlen : chunk.length ≤ 32) :
    execAll (emitCommands seq chunk) s =
      .next (s.answered
        { s.block with
          seq := seq, mem := { pay := chunk, pkt := packetBytes chunk s.block.ptype s.block.ident seq } }
        (BitVec.ofNat 16 (8 + chunk.length))) := by
  rw [emitCommands, List.append_assoc, List.singleton_append,
    execAll_cons_of_next _ (exec_of_effect (.pfseq hf))]
  exact execAll_pfload_pfbuild (s := s.answered { s.block with seq := seq } 0#16) hf ht hlen

/-- The host issues the commands of one packet; the last response is PFBUILD's, the length of the packet (R89). -/
theorem AtWork.run_emitCommands {s : State} {seq : Half} {chunk : List Byte} {rest : List HostOp} {d : Driver}
    (h : AtWork s ((emitCommands seq chunk).map sendInstr ++ rest) d) (hf : s.block.fault = false)
    (ht : legalType s.block.ptype = true) (hlen : chunk.length ≤ 32) :
    ∃ t, run (9 + 3 * chunk.length) s = .next t ∧ AtWork t rest d ∧
      t.block = { s.block with
        seq := seq, mem := { pay := chunk, pkt := packetBytes chunk s.block.ptype s.block.ident seq } } ∧
      respData t.host.last = BitVec.ofNat 16 (8 + chunk.length) := by
  obtain ⟨t, hrun, hwork, hblock, hport⟩ :=
    h.run_commands (v := { s with port := .response s.host.last }) (emitCommands_wellFormed seq chunk)
      (emitCommands_ne_reset seq chunk) rfl rfl (execAll_emitCommands seq hf ht hlen) hf
  rw [emitCommands_length, Nat.mul_add] at hrun
  rw [State.answered_port, Port.response.injEq] at hport
  exact ⟨t, hrun, hwork, hblock.symm, by rw [← hport, respData_responseWord]⟩

/-- The host is at work for a transfer: the block has no fault and holds the type and the identifier of the stream. -/
structure Transferring (s : State) (script : List HostOp) (d : Driver) : Prop extends AtWork s script d where
  clear : s.block.fault = false
  echoReply : s.block.ptype = Config.typeEchoReply
  ident : s.block.ident = d.ident

/-- R109 for one packet: it is built and read out. -/
theorem Transferring.run_emit {s : State} {d : Driver} {seq : Half} {chunk : List Byte}
    (h : Transferring s (emitProc seq chunk) d) (hlen : chunk.length ≤ 32) :
    ∃ t, run (34 + 6 * chunk.length) s = .next t ∧ Transferring t [] d ∧
      t.host.bytes = packetBytes chunk Config.typeEchoReply d.ident seq := by
  obtain ⟨hwork, hf, htype, hident⟩ := h
  rw [emitProc_eq] at hwork
  have hlegal : legalType s.block.ptype = true := by rw [htype]; decide
  obtain ⟨s₁, hrun, hwork₁, hblock₁, hlast₁⟩ := hwork.run_emitCommands hf hlegal hlen
  have hpkt₁ : s₁.block.mem.pkt = packetBytes chunk Config.typeEchoReply d.ident seq := by
    rw [hblock₁, htype, hident]
  have hlen₁ : s₁.block.mem.pkt.length = 8 + chunk.length := by rw [hpkt₁, packetBytes_length]
  have hf₁ : s₁.block.fault = false := by rw [hblock₁]; exact hf
  obtain ⟨t, hrun', ht, hblock, hbytes⟩ := hwork₁.run_readOut hf₁ (by omega) (by rw [hlast₁, hlen₁])
  have hblock : t.block = _ := hblock.trans hblock₁
  refine ⟨t, ?_, ⟨ht, by rw [hblock]; exact hf, by rw [hblock]; exact htype, by rw [hblock]; exact hident⟩,
    hbytes.trans hpkt₁⟩
  rw [hlen₁] at hrun'
  have hsteps : 34 + 6 * chunk.length = 9 + 3 * chunk.length + (1 + 3 * (8 + chunk.length)) := by omega
  exact hsteps ▸ run_trans hrun hrun'

/-- With its script worked off the host leaves the move to the driver. -/
theorem AtWork.step_eq {s : State} {d : Driver} (h : AtWork s [] d) : step s = driverMove s :=
  step_of_script_nil h.noReset h.idle h.script_eq

/-- A move of the driver that gives the host a script. -/
theorem AtWork.run_move {s : State} {d d' : Driver} {script : List HostOp} (h : AtWork s [] d)
    (hmove : driverMove s = .next { s with host := { s.host with script := script, driver := d' } }) :
    ∃ t, run 1 s = .next t ∧ AtWork t script d' ∧ t.block = s.block :=
  ⟨_, run_one _ _ (h.step_eq.trans hmove), ⟨h.noReset, h.idle, rfl, rfl⟩, rfl⟩

/-- The same during a transfer. -/
theorem Transferring.run_move {s : State} {d d' : Driver} {script : List HostOp} (h : Transferring s [] d)
    (hmove : driverMove s = .next { s with host := { s.host with script := script, driver := d' } })
    (hident : d'.ident = d.ident) : ∃ t, run 1 s = .next t ∧ Transferring t script d' := by
  obtain ⟨t, hrun, ht, hblock⟩ := h.toAtWork.run_move hmove
  exact ⟨t, hrun, ht, hblock ▸ h.clear, hblock ▸ h.echoReply, by rw [hblock, h.ident, hident]⟩

/-- EMIT_DATA up to its transmission: the packet of the next chunk with the counter as its number is read out (R105,
R107, R109). -/
theorem Transferring.run_emitData {s : State} {d : Driver} (h : Transferring s [] d) (hphase : d.phase = .reading)
    (hfile : d.file ≠ []) (hcounter : d.counter < 0xFFFE) :
    ∃ t, run (35 + 6 * (d.file.take 32).length) s = .next t ∧
      Transferring t [] { d with file := d.file.drop 32, phase := .emitData } ∧
      t.host.bytes = packetBytes (d.file.take 32) Config.typeEchoReply d.ident (BitVec.ofNat 16 d.counter) := by
  obtain rfl := h.driver_eq
  obtain ⟨s₁, hmove, h₁⟩ := h.run_move ((driverMove_of_chunk hphase hfile).trans (if_pos hcounter)) rfl
  obtain ⟨t, hrun, ht⟩ := h₁.run_emit (List.length_take_le 32 _)
  refine ⟨t, ?_, ht⟩
  rw [show ∀ n, 35 + n = 1 + (34 + n) by omega]
  exact run_trans hmove hrun

/-- EMIT_END up to its transmission: the end marker is read out (R104, R109). -/
theorem Transferring.run_emitEnd {s : State} {d : Driver} (h : Transferring s [] d) (hphase : d.phase = .reading)
    (hfile : d.file = []) :
    ∃ t, run 35 s = .next t ∧ Transferring t [] { d with phase := .emitEnd } ∧
      t.host.bytes = endMarker d.ident := by
  obtain rfl := h.driver_eq
  obtain ⟨s₁, hmove, h₁⟩ := h.run_move (driverMove_of_endOfFile hphase hfile) rfl
  obtain ⟨t, hrun, ht⟩ := h₁.run_emit (Nat.zero_le 32)
  exact ⟨t, run_trans hmove hrun, ht⟩

/-! ### Its transmission -/

/-- The driver after `transmit` of `K` has returned, with `net` the outcomes still to come (R110, R112). -/
def Driver.handedOver (d : Driver) (K : List Byte) (net : List Bool) : Driver :=
  { d with net := net, sent := d.sent ++ [(K, d.dest)] }

theorem transmit_of_cons {s : State} {outcome : Bool} {net : List Bool} (ok : Driver → Driver)
    (h : s.host.driver.net = outcome :: net) :
    transmit s ok = { s with host := { s.host with
      driver := if outcome then ok (s.host.driver.handedOver s.host.bytes net)
        else { s.host.driver.handedOver s.host.bytes net with phase := .aborted .transmitFailed } } } := by
  unfold transmit
  simp only [h]
  rfl

theorem driverMove_of_emitData {s : State} (h : s.host.driver.phase = .emitData) :
    driverMove s = .next (transmit s fun d => { d with counter := d.counter + 1, phase := .reading }) := by
  simp only [driverMove, h]

theorem driverMove_of_emitEnd {s : State} (h : s.host.driver.phase = .emitEnd) :
    driverMove s = .next (transmit s fun d => { d with phase := .done }) := by
  simp only [driverMove, h]

/-- The packet read out is handed over, and the outcome decides how the driver goes on (R110). -/
theorem Transferring.run_transmit {s : State} {d : Driver} {ok : Driver → Driver} {outcome : Bool} {net : List Bool}
    (h : Transferring s [] d) (hmove : driverMove s = .next (transmit s ok)) (hnet : d.net = outcome :: net)
    (hok : (ok (d.handedOver s.host.bytes net)).ident = d.ident) :
    ∃ t, run 1 s = .next t ∧ Transferring t []
      (if outcome then ok (d.handedOver s.host.bytes net)
        else { d.handedOver s.host.bytes net with phase := .aborted .transmitFailed }) := by
  have hstep := h.step_eq
  obtain ⟨⟨hreset, hidle, hscript, rfl⟩, hf, htype, hident⟩ := h
  rw [hmove, transmit_of_cons ok hnet] at hstep
  refine ⟨_, run_one _ _ hstep, ⟨hreset, hidle, hscript, rfl⟩, hf, htype, ?_⟩
  cases outcome
  · exact hident
  · exact hident.trans hok.symm

/-- One data packet, sent (R108): the driver is back in READING, with the next number. -/
theorem Transferring.run_dataPacket {s : State} {d : Driver} {net : List Bool} (h : Transferring s [] d)
    (hphase : d.phase = .reading) (hfile : d.file ≠ []) (hcounter : d.counter < 0xFFFE) (hnet : d.net = true :: net) :
    ∃ t, run (36 + 6 * (d.file.take 32).length) s = .next t ∧ Transferring t []
      { d with
        file := d.file.drop 32
        counter := d.counter + 1
        net := net
        sent := d.sent ++
          [(packetBytes (d.file.take 32) Config.typeEchoReply d.ident (BitVec.ofNat 16 d.counter), d.dest)] } := by
  obtain ⟨s₁, hrun, h₁, hbytes⟩ := h.run_emitData hphase hfile hcounter
  obtain ⟨t, hrun', ht⟩ := h₁.run_transmit (driverMove_of_emitData (congrArg Driver.phase h₁.driver_eq)) hnet rfl
  rw [hbytes] at ht
  refine ⟨t, ?_, hphase ▸ ht⟩
  rw [show ∀ n, 36 + n = 35 + n + 1 by omega]
  exact run_trans hrun hrun'

/-- The end marker, sent: the driver is DONE (R108). -/
theorem Transferring.run_endMarker {s : State} {d : Driver} {net : List Bool} (h : Transferring s [] d)
    (hphase : d.phase = .reading) (hfile : d.file = []) (hnet : d.net = true :: net) :
    ∃ t, run 36 s = .next t ∧
      Transferring t [] { d with phase := .done, net := net, sent := d.sent ++ [(endMarker d.ident, d.dest)] } := by
  obtain ⟨s₁, hrun, h₁, hbytes⟩ := h.run_emitEnd hphase hfile
  obtain ⟨t, hrun', ht⟩ := h₁.run_transmit (driverMove_of_emitEnd (congrArg Driver.phase h₁.driver_eq)) hnet rfl
  rw [hbytes] at ht
  exact ⟨t, run_trans hrun hrun', ht⟩

/-- The next packet, whichever it is, when its transmission fails (R110). -/
theorem Transferring.run_failure {s : State} {d : Driver} {net : List Bool} (h : Transferring s [] d)
    (hphase : d.phase = .reading) (hcounter : d.file ≠ [] → d.counter < 0xFFFE) (hnet : d.net = false :: net) :
    ∃ n t d', run n s = .next t ∧ Transferring t [] d' ∧ d'.phase = .aborted .transmitFailed ∧
      d'.sent = d.sent ++ ((packetsFrom d.ident d.counter d.file).take 1).map fun K => (K, d.dest) := by
  by_cases hfile : d.file = []
  · obtain ⟨s₁, hrun, h₁, hbytes⟩ := h.run_emitEnd hphase hfile
    obtain ⟨t, hrun', ht⟩ := h₁.run_transmit (driverMove_of_emitEnd (congrArg Driver.phase h₁.driver_eq)) hnet rfl
    refine ⟨_, t, _, run_trans hrun hrun', ht, rfl, ?_⟩
    rw [hfile, packetsFrom_nil, hbytes]
    rfl
  · obtain ⟨s₁, hrun, h₁, hbytes⟩ := h.run_emitData hphase hfile (hcounter hfile)
    obtain ⟨t, hrun', ht⟩ := h₁.run_transmit (driverMove_of_emitData (congrArg Driver.phase h₁.driver_eq)) hnet rfl
    refine ⟨_, t, _, run_trans hrun hrun', ht, rfl, ?_⟩
    rw [packetsFrom_of_ne_nil _ _ hfile, hbytes]
    rfl

/-! ### The whole transfer -/

/-- What R109 does once, before the loop: from every block, RESET and the type and the identifier of the stream. -/
theorem AtWork.run_setup {s : State} {d : Driver} (h : AtWork s [] d) (hphase : d.phase = .starting) :
    ∃ t, run 10 s = .next t ∧ Transferring t [] { d with counter := 0, phase := .reading } := by
  obtain rfl := h.driver_eq
  have hmove : driverMove s = .next { s with host := { s.host with
      script := setupProc s.host.driver.ident
      driver := { s.host.driver with counter := 0, phase := .reading } } } := by
    simp only [driverMove, hphase]
  obtain ⟨s₁, hrun₁, h₁, -⟩ := h.run_move hmove
  obtain ⟨s₂, hrun₂, h₂, hblock₂, -⟩ := h₁.run_send rfl .reset rfl
  obtain ⟨s₃, hrun₃, h₃, hblock₃, -⟩ := h₂.run_send rfl (.pftype (by rw [hblock₂]; rfl)) (by rw [hblock₂]; rfl)
  rw [hblock₂] at hblock₃
  obtain ⟨t, hrun₄, h₄, hblock₄, -⟩ := h₃.run_send rfl (.pfid (by rw [hblock₃]; rfl)) (by rw [hblock₃]; rfl)
  rw [hblock₃] at hblock₄
  exact ⟨t, run_trans (run_trans (run_trans hrun₁ hrun₂) hrun₃) hrun₄, h₄, by rw [hblock₄]; rfl, by rw [hblock₄],
    by rw [hblock₄]⟩

/-- `sendFile` called with nothing outstanding: the driver comes to READING, with the whole file to read. -/
theorem run_startTransfer {s : State} (file : List Byte) (dest : Word) (ident : Half) (net : List Bool)
    (hr : s.hwReset = false) (hp : s.port = .idle) :
    ∃ t, run 10 (s.startTransfer file dest ident net) = .next t ∧ Transferring t []
      { phase := .reading, file := file, ident := ident, dest := dest, counter := 0, net := net, sent := [] } :=
  AtWork.run_setup (s := s.startTransfer file dest ident net) ⟨hr, hp, rfl, rfl⟩ rfl

/-- From READING, with a collaborator that never fails, to DONE: the packets still to be sent are handed over. -/
theorem Transferring.run_toDone {file : List Byte} {s : State} {d : Driver} {m : Nat} (h : Transferring s [] d)
    (hfile : d.file = file) (hphase : d.phase = .reading) (hbound : d.counter + (chunks file).length ≤ 0xFFFE)
    (hnet : d.net = List.replicate m true) (hm : (chunks file).length < m) :
    ∃ t d', run (36 + 36 * (chunks file).length + 6 * file.length) s = .next t ∧ Transferring t [] d' ∧
      d'.phase = .done ∧ d'.sent = d.sent ++ (packetsFrom d.ident d.counter file).map fun K => (K, d.dest) := by
  induction file using chunk_induction generalizing s d m with
  | nil =>
    obtain ⟨m, rfl⟩ := Nat.exists_eq_add_of_lt hm
    obtain ⟨t, hrun, ht⟩ := h.run_endMarker hphase hfile hnet
    exact ⟨t, _, hrun, ht, rfl, rfl⟩
  | cons file hne ih =>
    have hchunks := length_chunks_of_ne_nil hne
    have hlen : (file.take 32).length + (file.drop 32).length = file.length := by
      rw [← List.length_append, List.take_append_drop]
    obtain ⟨m, rfl⟩ := Nat.exists_eq_add_of_lt hm
    obtain ⟨s₁, hrun, h₁⟩ := h.run_dataPacket hphase (hfile ▸ hne) (by omega) hnet
    obtain ⟨t, d', hrun', ht, hdone, hsent⟩ :=
      ih h₁ (congrArg (List.drop 32) hfile) hphase (by dsimp only; omega) rfl (by omega)
    refine ⟨t, d', ?_, ht, hdone, ?_⟩
    · have hsteps : 36 + 36 * (chunks file).length + 6 * file.length =
          36 + 6 * (file.take 32).length + (36 + 36 * (chunks (file.drop 32)).length + 6 * (file.drop 32).length) := by
        omega
      rw [hsteps]
      exact run_trans (hfile ▸ hrun) hrun'
    · rw [hsent, packetsFrom_of_ne_nil _ _ hne, List.map_cons, List.append_assoc, List.singleton_append, hfile]

/-- From READING, when the collaborator fails after `k` packets: those and the one that failed are handed over. -/
theorem Transferring.run_toAbort {k : Nat} {net : List Bool} {s : State} {d : Driver} (h : Transferring s [] d)
    (hphase : d.phase = .reading) (hbound : d.counter + (chunks d.file).length ≤ 0xFFFE)
    (hnet : d.net = List.replicate k true ++ false :: net) (hk : k ≤ (chunks d.file).length) :
    ∃ n t d', run n s = .next t ∧ Transferring t [] d' ∧ d'.phase = .aborted .transmitFailed ∧
      d'.sent = d.sent ++ ((packetsFrom d.ident d.counter d.file).take (k + 1)).map fun K => (K, d.dest) := by
  induction k generalizing s d with
  | zero =>
    refine h.run_failure hphase (fun hne => ?_) hnet
    have hchunks := length_chunks_of_ne_nil hne
    omega
  | succ k ih =>
    have hne : d.file ≠ [] := fun hnil => by simp [hnil] at hk
    have hchunks := length_chunks_of_ne_nil hne
    obtain ⟨s₁, hrun, h₁⟩ := h.run_dataPacket hphase hne (by omega) hnet
    obtain ⟨n, t, d', hrun', ht, habort, hsent⟩ := ih h₁ hphase (by dsimp only; omega) rfl (by dsimp only; omega)
    refine ⟨_, t, d', run_trans hrun hrun', ht, habort, ?_⟩
    rw [hsent, packetsFrom_of_ne_nil _ _ hne, List.take_succ_cons, List.map_cons, List.append_assoc,
      List.singleton_append]

/-- An aborted transfer makes no further move (R110). -/
theorem Transferring.run_of_aborted {s : State} {d : Driver} {why : AbortReason} (h : Transferring s [] d)
    (hphase : d.phase = .aborted why) (m : Nat) : run m s = .next s := by
  refine run_of_fixed s (h.step_eq.trans ?_) m
  rw [← h.driver_eq] at hphase
  simp only [driverMove, hphase]

end Sys2Proof.Machine

namespace Sys2Proof.Proofs

open Sys2Proof.Machine

/-- Settles O44: the set-up, then chunk by chunk to the end of the file. -/
theorem transferSendsTheWholeStream : Obligations.TransferSendsTheWholeStream := by
  intro s file dest ident net hr hp hbound hok hnet
  obtain ⟨s₁, hrun, h₁⟩ := run_startTransfer file dest ident net hr hp
  obtain ⟨t, d, hrun', ht, hdone, hsent⟩ :=
    h₁.run_toDone rfl rfl (by simpa using hbound) (List.eq_replicate_of_mem hok) hnet
  refine ⟨t, ?_, by rw [ht.driver_eq, hdone], ht.clear, ?_⟩
  · rw [show 46 + 36 * (chunks file).length + 6 * file.length =
      10 + (36 + 36 * (chunks file).length + 6 * file.length) by omega]
    exact run_trans hrun hrun'
  · rw [ht.driver_eq, hsent, List.nil_append, packetsFrom_zero]

/-- Settles O45: the set-up, the `k` packets before the failure, and the packet that fails. -/
theorem transmitFailureAbortsTheStream : Obligations.TransmitFailureAbortsTheStream := by
  intro s file dest ident net k hr hp hbound hk
  obtain ⟨s₁, hrun, h₁⟩ := run_startTransfer file dest ident (List.replicate k true ++ false :: net) hr hp
  obtain ⟨n, t, d, hrun', ht, habort, hsent⟩ := h₁.run_toAbort rfl (by simpa using hbound) rfl hk
  refine ⟨_, t, run_trans hrun hrun', by rw [ht.driver_eq, habort], ?_, ht.run_of_aborted habort⟩
  rw [ht.driver_eq, hsent, List.nil_append, packetsFrom_zero]

end Sys2Proof.Proofs

/-! # The step of the block, and the FAULTED state (60_exceptions.md R123, R124) -/

namespace Sys2Proof.Machine

/-- While FAULTED no command but RESET changes the block: the others are refused, or only read. -/
theorem CommandEffect.block_eq_of_faulted {b b' : Block} {i : Instr} {d : Half} (h : CommandEffect b i b' d)
    (hf : b.fault = true) (hr : i ≠ .reset) : b' = b := by
  cases h
  case reset => exact absurd rfl hr
  case refused | rdsr | csget | pfrd => rfl
  all_goals exact absurd (hf.symm.trans ‹b.fault = false›) Bool.noConfusion

/-- While FAULTED no word but that of RESET changes the block. -/
theorem WordEffect.block_eq_of_faulted {b b' : Block} {w : Word} {d : Half} (h : WordEffect b w b' d)
    (hf : b.fault = true) (hr : decode w ≠ .command .reset) : b' = b := by
  cases h with
  | command hw he => exact he.block_eq_of_faulted hf fun hi => hr (hi ▸ hw)
  | illegal _ hclear => exact absurd (hf.symm.trans hclear) Bool.noConfusion
  | illegalRefused => rfl

/-- While FAULTED a word other than those of RESET has an effect, and it leaves the block. -/
theorem wordEffect_of_faulted {b : Block} {w : Word} (hf : b.fault = true) (hr : decode w ≠ .command .reset) :
    ∃ d, WordEffect b w b d := by
  obtain ⟨b', d, he⟩ := wordEffect_exists w b
  obtain rfl := he.block_eq_of_faulted hf hr
  exact ⟨d, he⟩

/-- While FAULTED the effect of a word that is neither RESET nor RDSR is the refusal of R124. -/
theorem wordEffect_refused {b : Block} {w : Word} (hf : b.fault = true) (hr : decode w ≠ .command .reset)
    (hn : ∀ n, decode w ≠ .command (.rdsr n)) : WordEffect b w b 0#16 := by
  obtain ⟨d, he⟩ := wordEffect_of_faulted hf hr
  obtain rfl := he.data_eq_zero_of_faulted hf hn
  exact he

/-- The refusal of a word, whole: only the port changes. -/
theorem runCommand_refused {s : State} {w : Word} (hf : s.block.fault = true) (hr : decode w ≠ .command .reset)
    (hn : ∀ n, decode w ≠ .command (.rdsr n)) :
    runCommand w s = .next { s with port := .response (0x80#8 ++ s.block.cause ++ 0#16) } :=
  (runCommand_of_effect (wordEffect_refused hf hr hn)).trans (refuse_next s hf)

/-- A FAULTED block stays as it is through any words but those of RESET. -/
theorem runCommands_block_of_faulted (ws : List Word) {s : State} (hf : s.block.fault = true)
    (hr : ∀ w ∈ ws, decode w ≠ .command .reset) : ∃ t, runCommands ws s = .next t ∧ t.block = s.block := by
  induction ws generalizing s with
  | nil => exact ⟨s, rfl, rfl⟩
  | cons w ws ih =>
    obtain ⟨hw, hws⟩ := List.forall_mem_cons.1 hr
    obtain ⟨d, he⟩ := wordEffect_of_faulted hf hw
    rw [runCommands_cons_of_effect ws he]
    exact ih (s := s.answered s.block d) hf hws

/-- A FAULTED block answers any words but those of RESET and RDSR with refusals. -/
theorem responsesTo_of_faulted (ws : List Word) {s : State} (hf : s.block.fault = true)
    (hr : ∀ w ∈ ws, decode w ≠ .command .reset) (hn : ∀ w ∈ ws, ∀ n, decode w ≠ .command (.rdsr n)) :
    responsesTo ws s = ws.map fun _ => 0x80#8 ++ s.block.cause ++ 0#16 := by
  induction ws generalizing s with
  | nil => rfl
  | cons w ws ih =>
    obtain ⟨hw, hws⟩ := List.forall_mem_cons.1 hr
    obtain ⟨hnw, hnws⟩ := List.forall_mem_cons.1 hn
    rw [responsesTo_cons_of_effect ws (wordEffect_refused hf hw hnw), Block.responseWord_faulted _ _ hf,
      ih (s := s.answered s.block 0#16) hf hws hnws]
    rfl

/-- With the word of a command outstanding, the step is that command's meaning. -/
theorem step_of_decode {s : State} {w : Word} {i : Instr} (hs : s.hwReset = false) (hp : s.port = .command w)
    (hw : decode w = .command i) : step s = exec i s :=
  (step_of_command s w hs hp).trans (runCommand_of_command w s i hw)

end Sys2Proof.Machine

namespace Sys2Proof.Proofs

open Sys2Proof.Machine

/-- Settles O7: while FAULTED by the effects that are then left, otherwise by the two arms of R123. -/
theorem topLevelStepOrder : Obligations.TopLevelStepOrder := by
  intro s w hs hp
  have hstep : step s = runCommand w s := step_of_command s w hs hp
  refine ⟨fun hf => ⟨step_of_decode hs hp, fun n hw => ⟨step_of_decode hs hp hw, ?_⟩, fun hr hn => ?_⟩,
    fun hf => ⟨fun why hw => ?_, fun i => step_of_decode hs hp⟩⟩
  · have hr : decode w ≠ .command .reset := by simp [hw]
    obtain ⟨d, he⟩ := wordEffect_of_faulted hf hr
    exact ⟨s.answered s.block d, hstep.trans (runCommand_of_effect he), rfl, rfl⟩
  · exact hstep.trans (runCommand_refused hf hr hn)
  · exact hstep.trans (runCommand_of_illegal_clear hw hf)

/-- Settles O8: by induction on the words, as each of them leaves a FAULTED block as it is. -/
theorem faultedBlockIsAbsorbing : Obligations.FaultedBlockIsAbsorbing :=
  fun ws _ hf hr => ⟨runCommands_block_of_faulted ws hf hr, responsesTo_of_faulted ws hf hr⟩

/-- Settles O6: the outstanding word is decoded and its command run; a command's encoding decodes to it. -/
theorem stepRunsTheDecodedCommand : Obligations.StepRunsTheDecodedCommand := by
  refine ⟨fun s w i => step_of_decode, fun s i hi => ?_⟩
  rw [withFetchWord_of_word]
  exact step_of_decode rfl rfl (decode_encode hi)

end Sys2Proof.Proofs

/-! # The hardware reset, and steps without a command (70_reset_and_hazards.md R133, R134) -/

namespace Sys2Proof.Machine

/-- Only a waiting reset event or a command on the port can change the block (R134, 10_state.md R26). -/
theorem StepEffect.block_eq_of_no_command {s : State} {b' : Block} (h : StepEffect s b') (hr : s.hwReset = false)
    (hp : ∀ w, s.port ≠ .command w) : b' = s.block := by
  cases h with
  | hwReset hreset => cases hr.symm.trans hreset
  | word _ hword _ => exact absurd hword (hp _)
  | host _ _ => rfl

/-- With no transfer running the driver makes no move. -/
theorem driverMove_of_not_active {s : State} (h : s.host.driver.phase.active = false) : driverMove s = .next s := by
  cases hphase : s.host.driver.phase with
  | off | done | aborted _ => simp only [driverMove, hphase]
  | starting | reading | emitData | emitEnd => rw [hphase] at h; cases h

/-- With no reset event and nothing outstanding, an idle host leaves the whole machine as it is. -/
theorem step_of_quiet {s : State} (hr : s.hwReset = false) (hp : s.port = .idle) (hs : s.host.script = [])
    (ha : s.host.driver.phase.active = false) : step s = .next s :=
  (step_of_script_nil hr hp hs).trans (driverMove_of_not_active ha)

end Sys2Proof.Machine

namespace Sys2Proof.Proofs

open Sys2Proof.Machine

/-- Settles O14: by the effects of a step; the idle host leaves the move to a driver that makes none, and from reset each
step is such a move. -/
theorem resetMachineIsQuiet : Obligations.ResetMachineIsQuiet :=
  ⟨fun _ _ hr hp h => (step_effect h).block_eq_of_no_command hr hp, fun _ => step_of_quiet,
    run_of_fixed State.reset (step_of_quiet rfl rfl rfl rfl)⟩

/-- Settles O13: the reset event comes before any move, and `hardwareReset` replaces the block by `Block.reset`. -/
theorem hardwareResetRestoresEveryRegister : Obligations.HardwareResetRestoresEveryRegister := step_of_hwReset

end Sys2Proof.Proofs
